-- ==== Sys2Proof/Word.lean ====
section
/-!
DEFINITION. The words of the machine, after spec/00_scope.md R8 and R9: all of them unsigned.
-/
namespace Sys2Proof

/-- A 16-bit word: an instruction, the index register, the pc, a stack slot, the keypad (R8). -/
abbrev Word := BitVec 16

/-- A byte: a register, a timer, a memory cell, the immediate `nn` (R8, R9). -/
abbrev Byte := BitVec 8

/-- A nibble: `d1` to `d4` of a word, the count `n` (R8, R9). -/
abbrev Nibble := BitVec 4

/-- The 12-bit operand `nnn` (R9). -/
abbrev Imm12 := BitVec 12

/-- A register number, 0 to 15: V0 to VF (spec/10_state.md R20). -/
abbrev Reg := Fin 16

/-- VF, register 15: also the flag of the core (spec/10_state.md R21). -/
abbrev regVF : Reg := 15

end Sys2Proof
end

