-- ==== Sys2Proof/Config.lean ====
section
/-!
DEFINITION. What an implementation fixes and what the spec leaves free: the parameters of spec/00_scope.md R7.
Log entries 1 (draws), 2 (MEM_OOB), 3 (SPRITE_EDGE), 4 (FONT).
-/
namespace Sys2Proof.Config

/-- `MEM_SIZE` (R7): addresses 0x000 to 0xFFF. -/
abbrev memSize : Nat := 4096

/-- `PROG_BASE` (R7): where a program image is loaded, and the reset value of the pc. -/
abbrev progBase : Nat := 0x200

/-- `STACK_DEPTH` (R7). -/
abbrev stackDepth : Nat := 16

/-- `FONT_BASE` (R7). -/
abbrev fontBase : Nat := 0x000

/-- `FONT_GLYPH_BYTES` (R7). -/
abbrev fontGlyphBytes : Nat := 5

/-- `FB_W` (R7): columns of the framebuffer. -/
abbrev fbWidth : Nat := 64

/-- `FB_H` (R7): rows of the framebuffer. -/
abbrev fbHeight : Nat := 32

/-- The two policies for a memory address past 0xFFF (spec/20_memory.md R62). -/
inductive MemOob where
  /-- the address is reduced mod 4096 -/
  | wrap
  /-- the step is marked faulted -/
  | fault
deriving DecidableEq, Repr

/-- The two policies for a sprite pixel past the right or bottom edge (spec/44_display.md R212). -/
inductive SpriteEdge where
  /-- the pixel is dropped -/
  | clip
  /-- the pixel is drawn at its column mod 64 and its row mod 32 -/
  | wrap
deriving DecidableEq, Repr

/-- `MEM_OOB`, at the spec's default (R7, spec/92_eei_decisions.md D2; log entry 2). -/
def memOob : MemOob := .wrap

/-- `SPRITE_EDGE`, at the value the spec takes (R7, spec/92_eei_decisions.md D6; log entry 3). -/
def spriteEdge : SpriteEdge := .clip

/-- `FONT`, glyphs 0 to 7 (spec/10_state.md R34; PRESUMED, log entry 4). -/
def fontLow : List Byte :=
  [0xF0, 0x90, 0x90, 0x90, 0xF0] ++ [0x20, 0x60, 0x20, 0x20, 0x70] ++
  [0xF0, 0x10, 0xF0, 0x80, 0xF0] ++ [0xF0, 0x10, 0xF0, 0x10, 0xF0] ++
  [0x90, 0x90, 0xF0, 0x10, 0x10] ++ [0xF0, 0x80, 0xF0, 0x10, 0xF0] ++
  [0xF0, 0x80, 0xF0, 0x90, 0xF0] ++ [0xF0, 0x10, 0x20, 0x40, 0x40]

/-- `FONT`, glyphs 8 to F (spec/10_state.md R34; PRESUMED, log entry 4). -/
def fontHigh : List Byte :=
  [0xF0, 0x90, 0xF0, 0x90, 0xF0] ++ [0xF0, 0x90, 0xF0, 0x10, 0xF0] ++
  [0xF0, 0x90, 0xF0, 0x90, 0x90] ++ [0xE0, 0x90, 0xE0, 0x90, 0xE0] ++
  [0xF0, 0x80, 0x80, 0x80, 0xF0] ++ [0xE0, 0x90, 0x90, 0x90, 0xE0] ++
  [0xF0, 0x80, 0xF0, 0x80, 0xF0] ++ [0xF0, 0x80, 0xF0, 0x80, 0x80]

/-- `FONT`: the 80 font bytes, glyph d at `5 * d` (spec/10_state.md R34; PRESUMED, log entry 4). -/
def font : List Byte := fontLow ++ fontHigh

/-- `RAND`: the byte that the k-th draw gives, a FREE VALUE: nothing is known of it
(spec/42_alu.md R172, spec/92_eei_decisions.md D14; log entry 1). -/
opaque draw8 : Nat → Byte

end Sys2Proof.Config
end

