-- ==== Sys2Proof/Syntax.lean ====
section
/-!
DEFINITION. The instructions: one constructor for each row of spec/opcode_table.json (spec/30_encoding.md R93).
Operands are the fields of R92, each with exactly the width the word gives it.
-/
namespace Sys2Proof

/-- The 34 instructions of R93, in the table's order. -/
inductive Instr where
  /-- 00E0 CLS (spec/44_display.md R210) -/
  | cls
  /-- 00EE RET (spec/41_control_flow.md R140) -/
  | ret
  /-- 1nnn JP nnn (R141) -/
  | jp (nnn : Imm12)
  /-- 2nnn CALL nnn (R142) -/
  | call (nnn : Imm12)
  /-- 3xnn SE Vx, nn (R143) -/
  | seImm (x : Reg) (nn : Byte)
  /-- 4xnn SNE Vx, nn (R144) -/
  | sneImm (x : Reg) (nn : Byte)
  /-- 5xy0 SE Vx, Vy (R145) -/
  | seReg (x y : Reg)
  /-- 6xnn LD Vx, nn (spec/42_alu.md R161) -/
  | ldImm (x : Reg) (nn : Byte)
  /-- 7xnn ADD Vx, nn (R162) -/
  | addImm (x : Reg) (nn : Byte)
  /-- 8xy0 LD Vx, Vy (R163) -/
  | ldReg (x y : Reg)
  /-- 8xy1 OR Vx, Vy (R164) -/
  | or (x y : Reg)
  /-- 8xy2 AND Vx, Vy (R165) -/
  | and (x y : Reg)
  /-- 8xy3 XOR Vx, Vy (R166) -/
  | xor (x y : Reg)
  /-- 8xy4 ADD Vx, Vy (R167) -/
  | addReg (x y : Reg)
  /-- 8xy5 SUB Vx, Vy (R168) -/
  | sub (x y : Reg)
  /-- 8xy6 SHR Vx: `y` is decoded and ignored (R169) -/
  | shr (x y : Reg)
  /-- 8xy7 SUBN Vx, Vy (R170) -/
  | subn (x y : Reg)
  /-- 8xyE SHL Vx: `y` is decoded and ignored (R171) -/
  | shl (x y : Reg)
  /-- 9xy0 SNE Vx, Vy (spec/41_control_flow.md R146) -/
  | sneReg (x y : Reg)
  /-- Annn LD I, nnn (spec/43_index_memory.md R190) -/
  | ldI (nnn : Imm12)
  /-- Bnnn JP V0, nnn (spec/41_control_flow.md R147) -/
  | jpV0 (nnn : Imm12)
  /-- Cxnn RND Vx, nn (spec/42_alu.md R172) -/
  | rnd (x : Reg) (nn : Byte)
  /-- Dxyn DRW Vx, Vy, n (spec/44_display.md R211) -/
  | drw (x y : Reg) (n : Nibble)
  /-- Ex9E SKP Vx (spec/45_keypad_timers.md R230) -/
  | skp (x : Reg)
  /-- ExA1 SKNP Vx (R231) -/
  | sknp (x : Reg)
  /-- Fx07 LD Vx, DT (R232) -/
  | ldVxDt (x : Reg)
  /-- Fx0A LD Vx, K (R233) -/
  | ldVxK (x : Reg)
  /-- Fx15 LD DT, Vx (R235) -/
  | ldDtVx (x : Reg)
  /-- Fx18 LD ST, Vx (R236) -/
  | ldStVx (x : Reg)
  /-- Fx1E ADD I, Vx (spec/43_index_memory.md R191) -/
  | addIVx (x : Reg)
  /-- Fx29 LD F, Vx (R192) -/
  | ldFVx (x : Reg)
  /-- Fx33 LD B, Vx (R193) -/
  | ldBVx (x : Reg)
  /-- Fx55 LD [I], Vx (R194) -/
  | ldMemVx (x : Reg)
  /-- Fx65 LD Vx, [I] (R195) -/
  | ldVxMem (x : Reg)
deriving DecidableEq, Repr

end Sys2Proof
end

