-- ==== Sys2Proof/Decode.lean ====
section
/-!
DEFINITION. Decoding and encoding: spec/30_encoding.md R90 to R96 and spec/40_step_cycle.md R122, R123.
Decoding is total: a word that is no instruction is answered by name, with the word.
-/
namespace Sys2Proof

/-! ## The fields of a word (R91, R92, R122) -/

/-- `d1 = op[15:12]`. -/
def opD1 (op : Word) : Nibble := op.extractLsb' 12 4

/-- `x = op[11:8]`, a register number. -/
def opX (op : Word) : Reg := (op.extractLsb' 8 4).toFin

/-- `y = op[7:4]`, a register number. -/
def opY (op : Word) : Reg := (op.extractLsb' 4 4).toFin

/-- `n = op[3:0]`. -/
def opN (op : Word) : Nibble := op.extractLsb' 0 4

/-- `nn = op[7:0]`. -/
def opNN (op : Word) : Byte := op.extractLsb' 0 8

/-- `nnn = op[11:0]`. -/
def opNNN (op : Word) : Imm12 := op.extractLsb' 0 12

/-! ## Decoding -/

/-- What a word is: one of the 34 instructions, or an unknown opcode, named by its word (R94, R95). -/
inductive Decoded where
  | known (i : Instr)
  | unknownOpcode (op : Word)
deriving DecidableEq, Repr

/-- Words with d1 = 0: 00E0, 00EE, and nothing else (R93, R96). -/
def decodeZero (op : Word) : Decoded :=
  if op = 0x00E0 then .known .cls
  else if op = 0x00EE then .known .ret
  else .unknownOpcode op

/-- Words with d1 = 5: 5xy0 (R93). -/
def decodeFive (op : Word) : Decoded :=
  match opN op with
  | 0x0#4 => .known (.seReg (opX op) (opY op))
  | _ => .unknownOpcode op

/-- Words with d1 = 8: the register operations 8xy0 to 8xy7 and 8xyE (R93). -/
def decodeEight (op : Word) : Decoded :=
  match opN op with
  | 0x0#4 => .known (.ldReg (opX op) (opY op))
  | 0x1#4 => .known (.or (opX op) (opY op))
  | 0x2#4 => .known (.and (opX op) (opY op))
  | 0x3#4 => .known (.xor (opX op) (opY op))
  | 0x4#4 => .known (.addReg (opX op) (opY op))
  | 0x5#4 => .known (.sub (opX op) (opY op))
  | 0x6#4 => .known (.shr (opX op) (opY op))
  | 0x7#4 => .known (.subn (opX op) (opY op))
  | 0xE#4 => .known (.shl (opX op) (opY op))
  | _ => .unknownOpcode op

/-- Words with d1 = 9: 9xy0 (R93). -/
def decodeNine (op : Word) : Decoded :=
  match opN op with
  | 0x0#4 => .known (.sneReg (opX op) (opY op))
  | _ => .unknownOpcode op

/-- Words with d1 = E: Ex9E and ExA1 (R93). -/
def decodeE (op : Word) : Decoded :=
  match opNN op with
  | 0x9E#8 => .known (.skp (opX op))
  | 0xA1#8 => .known (.sknp (opX op))
  | _ => .unknownOpcode op

/-- Words with d1 = F: Fx07 to Fx65 (R93). -/
def decodeF (op : Word) : Decoded :=
  match opNN op with
  | 0x07#8 => .known (.ldVxDt (opX op))
  | 0x0A#8 => .known (.ldVxK (opX op))
  | 0x15#8 => .known (.ldDtVx (opX op))
  | 0x18#8 => .known (.ldStVx (opX op))
  | 0x1E#8 => .known (.addIVx (opX op))
  | 0x29#8 => .known (.ldFVx (opX op))
  | 0x33#8 => .known (.ldBVx (opX op))
  | 0x55#8 => .known (.ldMemVx (opX op))
  | 0x65#8 => .known (.ldVxMem (opX op))
  | _ => .unknownOpcode op

/-- The total decode, as the tree of R93: on d1 first, then on the word, d4 or the low byte. It depends on the word
alone (spec/40_step_cycle.md R123). -/
def decode (op : Word) : Decoded :=
  match opD1 op with
  | 0x0#4 => decodeZero op
  | 0x1#4 => .known (.jp (opNNN op))
  | 0x2#4 => .known (.call (opNNN op))
  | 0x3#4 => .known (.seImm (opX op) (opNN op))
  | 0x4#4 => .known (.sneImm (opX op) (opNN op))
  | 0x5#4 => decodeFive op
  | 0x6#4 => .known (.ldImm (opX op) (opNN op))
  | 0x7#4 => .known (.addImm (opX op) (opNN op))
  | 0x8#4 => decodeEight op
  | 0x9#4 => decodeNine op
  | 0xA#4 => .known (.ldI (opNNN op))
  | 0xB#4 => .known (.jpV0 (opNNN op))
  | 0xC#4 => .known (.rnd (opX op) (opNN op))
  | 0xD#4 => .known (.drw (opX op) (opY op) (opN op))
  | 0xE#4 => decodeE op
  | _ => decodeF op

/-- The word of two bytes, the one at the lower address first: big-endian (spec/20_memory.md R63). -/
def wordOfBytes (hi lo : Byte) : Word := hi ++ lo

/-- Decoding of a byte stream: the first word's reading and the rest of the bytes; none when fewer than two bytes are
left, so that there is no word to read. -/
def decodeBytes : List Byte → Option (Decoded × List Byte)
  | hi :: lo :: rest => some (decode (wordOfBytes hi lo), rest)
  | _ => none

/-! ## Encoding: the formats of R91 -/

/-- Format A: d1, nnn. -/
def formatA (d1 : Nibble) (nnn : Imm12) : Word := d1 ++ nnn

/-- Format XNN: d1, x, nn. -/
def formatXNN (d1 : Nibble) (x : Reg) (nn : Byte) : Word := d1 ++ (BitVec.ofFin x : Nibble) ++ nn

/-- Formats XY and XYN: d1, x, y, d4. -/
def formatXYN (d1 : Nibble) (x y : Reg) (d4 : Nibble) : Word :=
  d1 ++ (BitVec.ofFin x : Nibble) ++ (BitVec.ofFin y : Nibble) ++ d4

/-- The word of an instruction (R91, R93). Format O is the two words of d1 = 0; format X is XNN with a fixed low byte. -/
def encode : Instr → Word
  | .cls => 0x00E0
  | .ret => 0x00EE
  | .jp nnn => formatA 0x1 nnn
  | .call nnn => formatA 0x2 nnn
  | .seImm x nn => formatXNN 0x3 x nn
  | .sneImm x nn => formatXNN 0x4 x nn
  | .seReg x y => formatXYN 0x5 x y 0x0
  | .ldImm x nn => formatXNN 0x6 x nn
  | .addImm x nn => formatXNN 0x7 x nn
  | .ldReg x y => formatXYN 0x8 x y 0x0
  | .or x y => formatXYN 0x8 x y 0x1
  | .and x y => formatXYN 0x8 x y 0x2
  | .xor x y => formatXYN 0x8 x y 0x3
  | .addReg x y => formatXYN 0x8 x y 0x4
  | .sub x y => formatXYN 0x8 x y 0x5
  | .shr x y => formatXYN 0x8 x y 0x6
  | .subn x y => formatXYN 0x8 x y 0x7
  | .shl x y => formatXYN 0x8 x y 0xE
  | .sneReg x y => formatXYN 0x9 x y 0x0
  | .ldI nnn => formatA 0xA nnn
  | .jpV0 nnn => formatA 0xB nnn
  | .rnd x nn => formatXNN 0xC x nn
  | .drw x y n => formatXYN 0xD x y n
  | .skp x => formatXNN 0xE x 0x9E
  | .sknp x => formatXNN 0xE x 0xA1
  | .ldVxDt x => formatXNN 0xF x 0x07
  | .ldVxK x => formatXNN 0xF x 0x0A
  | .ldDtVx x => formatXNN 0xF x 0x15
  | .ldStVx x => formatXNN 0xF x 0x18
  | .addIVx x => formatXNN 0xF x 0x1E
  | .ldFVx x => formatXNN 0xF x 0x29
  | .ldBVx x => formatXNN 0xF x 0x33
  | .ldMemVx x => formatXNN 0xF x 0x55
  | .ldVxMem x => formatXNN 0xF x 0x65

/-- The high byte of a word, the one stored at the lower address (spec/20_memory.md R63). -/
def highByte (op : Word) : Byte := op.extractLsb' 8 8

/-- The low byte of a word, the one stored at the next address (spec/20_memory.md R63). -/
def lowByte (op : Word) : Byte := op.extractLsb' 0 8

/-- The bytes of an instruction in memory order (spec/20_memory.md R63). -/
def encodeBytes (i : Instr) : List Byte := [highByte (encode i), lowByte (encode i)]

/-! ## The host's view of the opcode table -/

/-- The 16-bit word of a table row whose low `nbits` bits are `w`; every bit above `nbits` is 0. An instruction is one
word, so the table's bit numbers are the word's own (spec/30_encoding.md R90). -/
def tableWord (nbits w : Nat) : Word := BitVec.ofNat 16 (w % 2 ^ nbits)

/-- The instruction this decoder reads from the row's word, laid out as the hardware stores it; none where it is an
unknown opcode. -/
def decodeTableWord (nbits w : Nat) : Option Instr :=
  match decodeBytes [highByte (tableWord nbits w), lowByte (tableWord nbits w)] with
  | some (.known i, _) => some i
  | _ => none

end Sys2Proof
end

