-- ==== Sys2Proof/Machine/State.lean ====
section
/-!
DEFINITION. The state of the core as plain data, all that spec/10_state.md gives it, and the state after reset.
-/
namespace Sys2Proof.Machine

/-- The execution mode (spec/10_state.md R27). -/
inductive Mode where
  /-- a `Step` fetches and executes -/
  | running
  /-- a `Step` checks the keypad; the register `t` waits for the key's index -/
  | awaitingKey (t : Reg)
deriving DecidableEq, Repr

/-- The three kinds of diagnostic condition (spec/60_exceptions.md R250, R251). -/
inductive DiagKind where
  /-- 00EE with SP = 0 -/
  | stackUnderflow
  /-- 2nnn with SP = 16 -/
  | stackOverflow
  /-- a word that matches no row of the opcode table -/
  | unknownOpcode
deriving DecidableEq, Repr

/-- The code of a kind (R251; UNVERIFIED, log entry 11). -/
def DiagKind.code : DiagKind → Nat
  | .stackUnderflow => 1
  | .stackOverflow => 2
  | .unknownOpcode => 3

/-- A record of the diagnostic output: the kind, the word fetched and its fetch address (R252). -/
structure Diag where
  kind : DiagKind
  op : Word
  addr : Word
deriving DecidableEq, Repr

/-- The 4096 bytes of memory (R29) as the cells that differ from the reset content: addresses strictly rising, each
below 4096, and no cell equal to what its address holds at reset (`Memory.wf`). -/
abbrev Memory := List Host.Cell

/-- The framebuffer: 32 rows of 64 pixels, row 0 at the top and column 0 at the left; true is on (R30). -/
abbrev Framebuffer := Vector (Vector Bool 64) 32

/-- Every pixel off (R36). -/
abbrev Framebuffer.blank : Framebuffer := Vector.replicate 32 (Vector.replicate 64 false)

/-- The state of the core (spec/10_state.md R20 to R32). -/
structure State where
  /-- V0 to VF (R20); VF is also the flag (R21) -/
  v : Vector Byte 16
  /-- the index register I (R24) -/
  i : Word
  /-- the program counter, 0 to 4095 in every reachable state (R23) -/
  pc : Word
  /-- the stack pointer SP: how many slots are occupied, 0 to 16 in every reachable state (R25) -/
  sp : BitVec 5
  /-- the stack slots S[0] to S[15] (R25) -/
  stack : Vector Word 16
  /-- the delay timer (R26) -/
  dt : Byte
  /-- the sound timer (R26) -/
  st : Byte
  /-- the execution mode (R27) -/
  mode : Mode
  /-- the key snapshot KS: bit k is key k at the last sample (R28) -/
  ks : Word
  /-- the memory M (R29) -/
  mem : Memory
  /-- the framebuffer FB (R30) -/
  fb : Framebuffer
  /-- the keypad K: bit k is 1 when key k is pressed; written by the host (R31, R54) -/
  keys : Word
  /-- the diagnostic output DIAG, oldest record first (R32) -/
  diag : List Diag
  /-- THE MODEL'S OWN: how many random bytes Cxnn has taken; it picks the next free value `Config.draw8` (log entry 1) -/
  draws : Nat
deriving DecidableEq, Repr

/-- Why a step can stop with a fault. -/
inductive Fault where
  /-- Raised by the fetch, DRW, LD B, LD [I] and LD Vx, [I] for an access past 0xFFF under the alternative
  `MEM_OOB = fault` (spec/20_memory.md R62); never under `Config.memOob = wrap`, the spec's default. Safe. -/
  | memoryOutOfRange (addr : Nat)
deriving DecidableEq, Repr

/-- Why an event can be refused. -/
inductive Refusal where
  /-- An instruction whose arm of `exec` has no meaning yet; no arm raises it. Safe. -/
  | notModelled (mnemonic : String)
  /-- Raised by the `Load` event for an image of more than 3584 bytes, which the host rejects or truncates so that the
  core never sees it (spec/10_state.md R55; spec/93_implementation_defined.md row 4, treatment `refuse`). Safe. -/
  | imageTooLong (length : Nat)
deriving DecidableEq, Repr

/-- The state after `Reset` and after construction (spec/10_state.md R36, spec/70_reset_and_hazards.md R280, R281). Memory
lists nothing: an unlisted address reads as its reset content, the font or 0. -/
def State.reset : State where
  v := Vector.replicate 16 0
  i := 0
  pc := BitVec.ofNat 16 Config.progBase
  sp := 0
  stack := Vector.replicate 16 0
  dt := 0
  st := 0
  mode := .running
  ks := 0
  mem := []
  fb := Framebuffer.blank
  keys := 0
  diag := []
  draws := 0

end Sys2Proof.Machine
end

