-- ==== Sys2Proof/Machine/Ops.lean ====
section
/-!
DEFINITION. The named operations over memory, registers, stack and framebuffer, and the one operation that reports a
condition. Every read and write of the state goes through these.
-/
namespace Sys2Proof.Machine

/-- What an event or an instruction answers. -/
abbrev Result := Host.Outcome State Fault Refusal

/-! ## Memory (spec/20_memory.md) -/

/-- `A(e) = e mod 4096`: the address of an address expression (R62). -/
def addrOf (e : Nat) : Nat := e % Config.memSize

/-- What an address holds at reset, and so what an unlisted address reads as: the font at 0x000 to 0x04F, 0 elsewhere
(R68; spec/10_state.md R34, R36). -/
def Memory.unlisted (a : Nat) : Byte := Config.font.getD (a - Config.fontBase) 0

/-- The canonical form from address `lo` up: strictly rising addresses below 4096, no cell equal to the reset content. -/
def Memory.wfFrom : Nat → Memory → Bool
  | _, [] => true
  | lo, (a, b) :: m =>
    decide (lo ≤ a) && decide (a < Config.memSize) && (b != Memory.unlisted a) && Memory.wfFrom (a + 1) m

/-- The canonical form of a memory. -/
def Memory.wf (m : Memory) : Bool := Memory.wfFrom 0 m

/-- `MemRead(a, 1)`: the byte at an address; no side effect (R66). -/
def Memory.read : Memory → Nat → Byte
  | [], a => Memory.unlisted a
  | (a', b) :: m, a => if a = a' then b else Memory.read m a

/-- The cell of an address, where it must be listed: none where the byte is the reset content. -/
def Memory.cell (a : Nat) (b : Byte) : Memory := if b = Memory.unlisted a then [] else [(a, b)]

/-- `MemWrite(a, 1, b)`: stores one byte and keeps the canonical form. -/
def Memory.write : Memory → Nat → Byte → Memory
  | [], a, b => Memory.cell a b
  | (a', b') :: m, a, b =>
    if a < a' then Memory.cell a b ++ (a', b') :: m
    else if a = a' then Memory.cell a b ++ m
    else (a', b') :: Memory.write m a b

/-- The bytes at `A(e)`, `A(e + 1)`, ..., `len` of them, in that order (R62, R65). -/
def Memory.readBytes (m : Memory) (e : Nat) : Nat → List Byte
  | 0 => []
  | len + 1 => m.read (addrOf e) :: m.readBytes (e + 1) len

/-- Stores bytes at `A(e)`, `A(e + 1)`, ..., in that order (R62, R65). -/
def Memory.writeBytes (m : Memory) (e : Nat) : List Byte → Memory
  | [] => m
  | b :: bs => (m.write (addrOf e) b).writeBytes (e + 1) bs

/-- The policy `MEM_OOB` (R62) for the accesses `e` to `e + len - 1` of one step: under `fault`, an access past 0xFFF marks
the step faulted; under `wrap` the step goes on, with the addresses reduced by `addrOf`. -/
def guardRange (policy : Config.MemOob) (e len : Nat) (go : Result) : Result :=
  match policy with
  | .wrap => go
  | .fault =>
    if len = 0 ∨ e + len ≤ Config.memSize then go else .fault (.memoryOutOfRange (max e Config.memSize))

/-! ## Registers (spec/10_state.md R20 to R28) -/

/-- `V[x]`. -/
def State.reg (s : State) (x : Reg) : Byte := s.v.get x

/-- `V[x] <- b`. -/
def State.setReg (s : State) (x : Reg) (b : Byte) : State := { s with v := s.v.set x b }

/-- `V[0xF] <- flag`, as 1 or 0: the flag of the core (R21). -/
def State.setFlag (s : State) (flag : Bool) : State := s.setReg regVF (if flag then 1 else 0)

/-- `I <- w`. -/
def State.setIndex (s : State) (w : Word) : State := { s with i := w }

/-- `pc <- target`: every write stores its value mod 4096 (R23). -/
def State.setPc (s : State) (target : Nat) : State := { s with pc := BitVec.ofNat 16 (target % Config.memSize) }

/-- `DT <- b`. -/
def State.setDelay (s : State) (b : Byte) : State := { s with dt := b }

/-- `ST <- b`. -/
def State.setSound (s : State) (b : Byte) : State := { s with st := b }

/-- `mode <- m`. -/
def State.setMode (s : State) (m : Mode) : State := { s with mode := m }

/-- `KS <- w`. -/
def State.setSnapshot (s : State) (w : Word) : State := { s with ks := w }

/-- `M <- m`. -/
def State.setMem (s : State) (m : Memory) : State := { s with mem := m }

/-- `FB <- fb`. -/
def State.setFb (s : State) (fb : Framebuffer) : State := { s with fb := fb }

/-- `V[k] <- b` for consecutive registers from number `k` up, in that order (spec/43_index_memory.md R195). -/
def setRegsFrom (v : Vector Byte 16) (k : Nat) : List Byte → Vector Byte 16
  | [] => v
  | b :: bs => setRegsFrom (v.setIfInBounds k b) (k + 1) bs

/-- Registers V0, V1, ... take the bytes of a list. -/
def State.setRegs (s : State) (bs : List Byte) : State := { s with v := setRegsFrom s.v 0 bs }

/-! ## The stack (spec/10_state.md R25) -/

/-- `S[k]`; a slot number of 16 or more names no slot and reads as 0, which no reachable state does (log entry 17). -/
def State.slot (s : State) (k : Nat) : Word := s.stack[k]?.getD 0

/-- `S[SP] <- w; SP <- SP + 1` (spec/41_control_flow.md R142). -/
def State.push (s : State) (w : Word) : State :=
  { s with stack := s.stack.setIfInBounds s.sp.toNat w, sp := s.sp + 1 }

/-- `SP <- SP - 1`: the slot keeps its value (R25; spec/41_control_flow.md R140). -/
def State.pop (s : State) : State := { s with sp := s.sp - 1 }

/-! ## The framebuffer (spec/10_state.md R30) -/

/-- `FB[r][c]`. -/
def Framebuffer.pixel (fb : Framebuffer) (r : Fin 32) (c : Fin 64) : Bool := (fb.get r).get c

/-- `FB[r][c] <- on`. -/
def Framebuffer.setPixel (fb : Framebuffer) (r : Fin 32) (c : Fin 64) (on : Bool) : Framebuffer :=
  fb.set r ((fb.get r).set c on)

/-! ## Draws (spec/00_scope.md R8, spec/42_alu.md R172) -/

/-- `draw8()`: the byte of the next draw, a free value (log entry 1). -/
def State.draw (s : State) : Byte := Config.draw8 s.draws

/-- The draw is taken: the next one is fresh. -/
def State.takeDraw (s : State) : State := { s with draws := s.draws + 1 }

/-! ## Reporting a condition (spec/60_exceptions.md R250 to R258)

This is all there is of exceptions: no trap entry, no saved state, no handler and no return (R258). -/

/-- The fetch address of the word being executed: the post-fetch pc minus 2, mod 4096 (R252). -/
def State.fetchAddr (s : State) : Word := BitVec.ofNat 16 ((s.pc.toNat + (Config.memSize - 2)) % Config.memSize)

/-- `raise Diag(kind, op, a)`, on the state after fetch: the record is appended and nothing else changes (R252, R253). -/
def State.raise (s : State) (kind : DiagKind) (op : Word) : State :=
  { s with diag := s.diag ++ [⟨kind, op, s.fetchAddr⟩] }

end Sys2Proof.Machine
end

