-- ==== Sys2Proof/Machine/Flags.lean ====
section
/-!
DEFINITION. The flag computations of spec/42_alu.md: exact unsigned arithmetic, then a comparison (R160).
-/
namespace Sys2Proof.Machine

/-- The carry of 8xy4: the exact sum is above 255 (R160, R167). -/
def carryOut (p q : Byte) : Bool := decide (p.toNat + q.toNat > 255)

/-- The no-borrow flag of `p - q`: the minuend is at least the subtrahend (R160, R168, R170). -/
def noBorrow (p q : Byte) : Bool := decide (p.toNat ≥ q.toNat)

/-- The bit 8xy6 shifts out: bit 0 (R169). -/
def shiftedOutRight (p : Byte) : Bool := p.getLsbD 0

/-- The bit 8xyE shifts out: bit 7 (R171). -/
def shiftedOutLeft (p : Byte) : Bool := p.getLsbD 7

/-- `(p + q) mod 256` (R160). -/
def addMod (p q : Byte) : Byte := BitVec.ofNat 8 (p.toNat + q.toNat)

/-- `(p - q) mod 256`, i.e. `(p + 256 - q) mod 256` (R160, R168). -/
def subMod (p q : Byte) : Byte := BitVec.ofNat 8 (p.toNat + 256 - q.toNat)

/-- Vx is written first and VF last, so that VF ends holding the flag when x = F (spec/40_step_cycle.md R126). -/
def State.setRegThenFlag (s : State) (x : Reg) (b : Byte) (flag : Bool) : State := (s.setReg x b).setFlag flag

end Sys2Proof.Machine
end

