-- ==== Sys2Proof/Machine/Operands.lean ====
section
/-!
DEFINITION. The operand forms the instruction rules share: the skip, the address `A(I + k)`, the key number, the glyph
address, the BCD digits, the sprite's place.
-/
namespace Sys2Proof.Machine

/-- "Skip next instruction": `pc <- (pc + 2) mod 4096` on the post-fetch pc, when the condition holds
(spec/40_step_cycle.md R124). -/
def State.skipIf (s : State) (cond : Bool) : State := if cond then s.setPc (s.pc.toNat + 2) else s

/-- `A(I + k)`, the address of the k-th byte of an I-based access (spec/20_memory.md R62). -/
def State.indexAddr (s : State) (k : Nat) : Nat := addrOf (s.i.toNat + k)

/-- The low nibble of a register, which names a key or a hex digit (spec/45_keypad_timers.md R230,
spec/43_index_memory.md R192). -/
def lowNibble (b : Byte) : Nat := b.toNat % 16

/-- `K[V[x][3:0]] = 1` (spec/45_keypad_timers.md R230, R231). -/
def State.keyOf (s : State) (x : Reg) : Bool := s.keys.getLsbD (lowNibble (s.reg x))

/-- The address of the font glyph of a byte's low nibble: `FONT_BASE + 5 * d` (spec/43_index_memory.md R192). -/
def glyphAddr (b : Byte) : Word := BitVec.ofNat 16 (Config.fontBase + Config.fontGlyphBytes * lowNibble b)

/-- The BCD digits of a byte, hundreds first, each a whole byte (spec/43_index_memory.md R193). -/
def bcdDigits (b : Byte) : List Byte :=
  [BitVec.ofNat 8 (b.toNat / 100), BitVec.ofNat 8 (b.toNat / 10 % 10), BitVec.ofNat 8 (b.toNat % 10)]

/-- V0 to Vx inclusive, in order (spec/43_index_memory.md R194). -/
def State.regsUpTo (s : State) (x : Reg) : List Byte := s.v.toList.take (x.val + 1)

/-- `c0 = V[x] mod 64`: the start column always wraps (spec/44_display.md R211). -/
def spriteColumn (b : Byte) : Nat := b.toNat % Config.fbWidth

/-- `r0 = V[y] mod 32`: the start row always wraps (spec/44_display.md R211). -/
def spriteRow (b : Byte) : Nat := b.toNat % Config.fbHeight

/-- Column j of a sprite's row byte: bit 7 is the leftmost pixel (spec/44_display.md R213). -/
def spriteBit (b : Byte) (j : Nat) : Bool := b.getLsbD (7 - j)

/-- `place(R, C)`: where a pixel of the unwrapped row and column lies, none where it is not visible
(spec/44_display.md R212). -/
def place (edge : Config.SpriteEdge) (r c : Nat) : Option (Fin 32 × Fin 64) :=
  match edge with
  | .clip => if h : r < 32 ∧ c < 64 then some (⟨r, h.1⟩, ⟨c, h.2⟩) else none
  | .wrap => some (⟨r % 32, Nat.mod_lt r (by decide)⟩, ⟨c % 64, Nat.mod_lt c (by decide)⟩)

/-- The lowest-numbered key of a set, `min { k : w[k] = 1 }`; none for the empty set (spec/45_keypad_timers.md R234). -/
def lowestKey (w : Word) : Option Nat := (List.range 16).find? (fun k => w.getLsbD k)

/-- The keys pressed now and not at the last sample: `K AND NOT KS` (spec/45_keypad_timers.md R234). -/
def State.newKeys (s : State) : Word := s.keys &&& ~~~s.ks

end Sys2Proof.Machine
end

