-- ==== Sys2Proof/Machine/Alu.lean ====
section
/-!
DEFINITION. Register loads and the ALU: spec/42_alu.md. Operands are read before any write and VF is written last
(spec/40_step_cycle.md R126).
-/
namespace Sys2Proof.Machine

/-- 6xnn LD Vx, nn (R161). -/
def execLdImm (x : Reg) (nn : Byte) (s : State) : Result := .next (s.setReg x nn)

/-- 7xnn ADD Vx, nn: no flag (R162). -/
def execAddImm (x : Reg) (nn : Byte) (s : State) : Result := .next (s.setReg x (addMod (s.reg x) nn))

/-- 8xy0 LD Vx, Vy (R163). -/
def execLdReg (x y : Reg) (s : State) : Result := .next (s.setReg x (s.reg y))

/-- 8xy1 OR Vx, Vy: no flag (R164). -/
def execOr (x y : Reg) (s : State) : Result := .next (s.setReg x (s.reg x ||| s.reg y))

/-- 8xy2 AND Vx, Vy: no flag (R165). -/
def execAnd (x y : Reg) (s : State) : Result := .next (s.setReg x (s.reg x &&& s.reg y))

/-- 8xy3 XOR Vx, Vy: no flag (R166). -/
def execXor (x y : Reg) (s : State) : Result := .next (s.setReg x (s.reg x ^^^ s.reg y))

/-- 8xy4 ADD Vx, Vy: VF is the carry (R167). -/
def execAddReg (x y : Reg) (s : State) : Result :=
  .next (s.setRegThenFlag x (addMod (s.reg x) (s.reg y)) (carryOut (s.reg x) (s.reg y)))

/-- 8xy5 SUB Vx, Vy: VF is the no-borrow flag (R168). -/
def execSub (x y : Reg) (s : State) : Result :=
  .next (s.setRegThenFlag x (subMod (s.reg x) (s.reg y)) (noBorrow (s.reg x) (s.reg y)))

/-- 8xy6 SHR Vx: the field y is ignored (R169). -/
def execShr (x : Reg) (s : State) : Result :=
  .next (s.setRegThenFlag x (s.reg x >>> 1) (shiftedOutRight (s.reg x)))

/-- 8xy7 SUBN Vx, Vy: VF is the no-borrow flag of Vy - Vx (R170). -/
def execSubn (x y : Reg) (s : State) : Result :=
  .next (s.setRegThenFlag x (subMod (s.reg y) (s.reg x)) (noBorrow (s.reg y) (s.reg x)))

/-- 8xyE SHL Vx: the field y is ignored (R171). -/
def execShl (x : Reg) (s : State) : Result :=
  .next (s.setRegThenFlag x (s.reg x <<< 1) (shiftedOutLeft (s.reg x)))

/-- Cxnn RND Vx, nn: a fresh draw under a mask; the draw is a free value (R172, log entry 1). -/
def execRnd (x : Reg) (nn : Byte) (s : State) : Result := .next (s.takeDraw.setReg x (s.draw &&& nn))

end Sys2Proof.Machine
end

