-- ==== Sys2Proof/Machine/Control.lean ====
section
/-!
DEFINITION. Control flow: spec/41_control_flow.md. In every meaning the pc of `s` is already the post-fetch pc.
-/
namespace Sys2Proof.Machine

/-- 00EE RET (R140). -/
def execRet (s : State) : Result :=
  if s.sp = 0 then .next (s.raise .stackUnderflow (encode .ret))
  else .next (s.pop.setPc (s.slot s.pop.sp.toNat).toNat)

/-- 1nnn JP nnn (R141). -/
def execJp (nnn : Imm12) (s : State) : Result := .next (s.setPc nnn.toNat)

/-- 2nnn CALL nnn (R142): the return address pushed is the post-fetch pc. -/
def execCall (nnn : Imm12) (s : State) : Result :=
  if s.sp = 16 then .next (s.raise .stackOverflow (encode (.call nnn)))
  else .next ((s.push s.pc).setPc nnn.toNat)

/-- 3xnn SE Vx, nn (R143). -/
def execSeImm (x : Reg) (nn : Byte) (s : State) : Result := .next (s.skipIf (s.reg x == nn))

/-- 4xnn SNE Vx, nn (R144). -/
def execSneImm (x : Reg) (nn : Byte) (s : State) : Result := .next (s.skipIf (s.reg x != nn))

/-- 5xy0 SE Vx, Vy (R145). -/
def execSeReg (x y : Reg) (s : State) : Result := .next (s.skipIf (s.reg x == s.reg y))

/-- 9xy0 SNE Vx, Vy (R146). -/
def execSneReg (x y : Reg) (s : State) : Result := .next (s.skipIf (s.reg x != s.reg y))

/-- Bnnn JP V0, nnn (R147): the offset register is always V0. -/
def execJpV0 (nnn : Imm12) (s : State) : Result := .next (s.setPc (nnn.toNat + (s.reg 0).toNat))

end Sys2Proof.Machine
end

