-- ==== Sys2Proof/Machine/Display.lean ====
section
/-!
DEFINITION. The display: spec/44_display.md. The sprite is drawn by the loop of R211, row by row and, in a row, column by
column.
-/
namespace Sys2Proof.Machine

/-- What the loop of R211 carries: the framebuffer and `hit`. -/
structure Canvas where
  fb : Framebuffer
  hit : Bool
deriving DecidableEq, Repr

/-- One 1 bit of the sprite at unwrapped row and column: where it is visible, the pixel is flipped, and `hit` is set if
it was on (R211). -/
def plot (edge : Config.SpriteEdge) (r c : Nat) (cv : Canvas) : Canvas :=
  match place edge r c with
  | none => cv
  | some (pr, pc) => ⟨cv.fb.setPixel pr pc (!cv.fb.pixel pr pc), cv.hit || cv.fb.pixel pr pc⟩

/-- The first `j` columns of a sprite row: a 0 bit leaves its pixel alone (R211, R213). -/
def drawColumns (edge : Config.SpriteEdge) (r c0 : Nat) (b : Byte) : Nat → Canvas → Canvas
  | 0, cv => cv
  | j + 1, cv =>
    if spriteBit b j then plot edge r (c0 + j) (drawColumns edge r c0 b j cv) else drawColumns edge r c0 b j cv

/-- The first `k` rows of a sprite whose row bytes are at `A(base)`, `A(base + 1)`, ... (R211, R213). -/
def drawRows (edge : Config.SpriteEdge) (m : Memory) (base r0 c0 : Nat) : Nat → Canvas → Canvas
  | 0, cv => cv
  | k + 1, cv => drawColumns edge (r0 + k) c0 (m.read (addrOf (base + k))) 8 (drawRows edge m base r0 c0 k cv)

/-- The canvas after the sprite of DRW Vx, Vy, n, under an edge policy (R211, R212). -/
def State.drawn (s : State) (edge : Config.SpriteEdge) (x y : Reg) (n : Nibble) : Canvas :=
  drawRows edge s.mem s.i.toNat (spriteRow (s.reg y)) (spriteColumn (s.reg x)) n.toNat ⟨s.fb, false⟩

/-- 00E0 CLS (R210). -/
def execCls (s : State) : Result := .next (s.setFb Framebuffer.blank)

/-- Dxyn DRW Vx, Vy, n: VF is the collision, written last (R211). -/
def execDrw (x y : Reg) (n : Nibble) (s : State) : Result :=
  guardRange Config.memOob s.i.toNat n.toNat
    (.next ((s.setFb (s.drawn Config.spriteEdge x y n).fb).setFlag (s.drawn Config.spriteEdge x y n).hit))

end Sys2Proof.Machine
end

