-- ==== Sys2Proof/Machine/Index.lean ====
section
/-!
DEFINITION. The index register and the memory operations: spec/43_index_memory.md. No access changes I.
-/
namespace Sys2Proof.Machine

/-- Annn LD I, nnn (R190). -/
def execLdI (nnn : Imm12) (s : State) : Result := .next (s.setIndex (nnn.setWidth 16))

/-- Fx1E ADD I, Vx: mod 65536, no flag (R191). -/
def execAddIVx (x : Reg) (s : State) : Result :=
  .next (s.setIndex (BitVec.ofNat 16 (s.i.toNat + (s.reg x).toNat)))

/-- Fx29 LD F, Vx (R192). -/
def execLdFVx (x : Reg) (s : State) : Result := .next (s.setIndex (glyphAddr (s.reg x)))

/-- Fx33 LD B, Vx: three digits at `A(I)`, `A(I + 1)`, `A(I + 2)` (R193). -/
def execLdBVx (x : Reg) (s : State) : Result :=
  guardRange Config.memOob s.i.toNat 3 (.next (s.setMem (s.mem.writeBytes s.i.toNat (bcdDigits (s.reg x)))))

/-- Fx55 LD [I], Vx: V0 to Vx to memory (R194). -/
def execLdMemVx (x : Reg) (s : State) : Result :=
  guardRange Config.memOob s.i.toNat (x.val + 1) (.next (s.setMem (s.mem.writeBytes s.i.toNat (s.regsUpTo x))))

/-- Fx65 LD Vx, [I]: V0 to Vx from memory (R195). -/
def execLdVxMem (x : Reg) (s : State) : Result :=
  guardRange Config.memOob s.i.toNat (x.val + 1) (.next (s.setRegs (s.mem.readBytes s.i.toNat (x.val + 1))))

end Sys2Proof.Machine
end

