-- ==== Sys2Proof/Machine/Keypad.lean ====
section
/-!
DEFINITION. The keypad and the timer instructions: spec/45_keypad_timers.md, with the awaiting-key step of R234.
-/
namespace Sys2Proof.Machine

/-- Ex9E SKP Vx (R230). -/
def execSkp (x : Reg) (s : State) : Result := .next (s.skipIf (s.keyOf x))

/-- ExA1 SKNP Vx (R231). -/
def execSknp (x : Reg) (s : State) : Result := .next (s.skipIf (!s.keyOf x))

/-- Fx07 LD Vx, DT (R232). -/
def execLdVxDt (x : Reg) (s : State) : Result := .next (s.setReg x s.dt)

/-- Fx0A LD Vx, K: the wait begins; Vx is written by a later awaiting-key step (R233). -/
def execLdVxK (x : Reg) (s : State) : Result := .next ((s.setMode (.awaitingKey x)).setSnapshot s.keys)

/-- Fx15 LD DT, Vx (R235). -/
def execLdDtVx (x : Reg) (s : State) : Result := .next (s.setDelay (s.reg x))

/-- Fx18 LD ST, Vx (R236). -/
def execLdStVx (x : Reg) (s : State) : Result := .next (s.setSound (s.reg x))

/-- `AwaitKeyStep(t)`: what a `Step` does while the mode is `AwaitingKey(t)`; no fetch, and the pc stays (R234). -/
def awaitKeyStep (t : Reg) (s : State) : Result :=
  match lowestKey s.newKeys with
  | some k => .next ((s.setReg t (BitVec.ofNat 8 k)).setMode .running)
  | none => .next (s.setSnapshot s.keys)

end Sys2Proof.Machine
end

