-- ==== Sys2Proof/Machine/Cycle.lean ====
section
/-!
DEFINITION. Fetch, decode and dispatch: spec/40_step_cycle.md R120 to R123.
-/
namespace Sys2Proof.Machine

/-- The word at an address expression: the byte at `A(a)` is the high one, the byte at `A(a + 1)` the low one
(R121; spec/20_memory.md R62, R63). -/
def Memory.wordAt (m : Memory) (a : Nat) : Word := wordOfBytes (m.read (addrOf a)) (m.read (addrOf (a + 1)))

/-- The word a `Step` fetches (R121). -/
def State.fetchWord (s : State) : Word := s.mem.wordAt s.pc.toNat

/-- The state after fetch: the pc is advanced by 2, mod 4096, for every word (R121). -/
def State.afterFetch (s : State) : State := s.setPc (s.pc.toNat + 2)

/-- `Execute(op, a)` on the state after fetch: the one instruction the word is, or the unknown-opcode condition
(R123; spec/60_exceptions.md R256). -/
def execute (op : Word) (s : State) : Result :=
  match decode op with
  | .known i => exec i s
  | .unknownOpcode op => .next (s.raise .unknownOpcode op)

/-- A `Step` in the mode Running: fetch two bytes, advance the pc, execute (R120). -/
def runStep (s : State) : Result := guardRange Config.memOob s.pc.toNat 2 (execute s.fetchWord s.afterFetch)

/-- Stores a word big-endian at an address expression (spec/20_memory.md R63). -/
def Memory.placeWord (m : Memory) (a : Nat) (op : Word) : Memory := m.writeBytes a [highByte op, lowByte op]

/-- The state with a word placed where the next `Step` fetches, and in the mode that fetches (log entry 15). -/
def State.withWord (s : State) (op : Word) : State := (s.setMem (s.mem.placeWord s.pc.toNat op)).setMode .running

end Sys2Proof.Machine
end

