-- ==== Sys2Proof/Machine/Step.lean ====
section
/-!
DEFINITION. The `Step` event: spec/40_step_cycle.md R120.
-/
namespace Sys2Proof.Machine

/-- One `Step`: an awaiting-key check in the mode AwaitingKey, one fetched instruction in the mode Running (R120). -/
def step (s : State) : Host.Outcome State Fault Refusal :=
  match s.mode with
  | .awaitingKey t => awaitKeyStep t s
  | .running => runStep s

/-- `s` with a table row's word where `step` fetches its next instruction (log entry 15). -/
def State.withFetchWord (s : State) (nbits w : Nat) : State := s.withWord (tableWord nbits w)

end Sys2Proof.Machine
end

