-- ==== Sys2Proof/Machine/Events.lean ====
section
/-!
DEFINITION. The five host events (spec/10_state.md R50 to R55) and the outputs the host reads (R56). `Step` is `step`;
the other four are here. The host issues events one at a time, in any order (R50, spec/70_reset_and_hazards.md R291).
-/
namespace Sys2Proof.Machine

/-- A timer counts toward 0 and is held there (spec/60_exceptions.md R262). -/
def countDown (b : Byte) : Byte := if b.toNat > 0 then BitVec.ofNat 8 (b.toNat - 1) else b

/-- `Tick`: both timers count down, and nothing else changes, whatever the mode (spec/60_exceptions.md R262). -/
def tick (s : State) : State := (s.setDelay (countDown s.dt)).setSound (countDown s.st)

/-- `Reset`: every piece of state to its reset value; the records already emitted stay, and the host's random source is
not touched (spec/70_reset_and_hazards.md R280, R282, R283). -/
def resetEvent (s : State) : State := { State.reset with diag := s.diag, draws := s.draws }

/-- `SetKeys(k)`: `K[i] <- k[i]`, and nothing else (spec/10_state.md R54). -/
def setKeys (k : Word) (s : State) : State := { s with keys := k }

/-- `Load(bytes)`: the image at 0x200, verbatim, and nothing else; an image that does not fit never reaches the core, and
is refused by name (spec/10_state.md R55). -/
def loadImage (bytes : List Byte) (s : State) : Result :=
  if imageFits bytes then .next (s.setMem (s.mem.writeBytes Config.progBase bytes))
  else .refused (.imageTooLong bytes.length)

/-- The events of R50. -/
inductive Event where
  | step
  | tick
  | reset
  | setKeys (k : Word)
  | load (bytes : List Byte)
deriving DecidableEq, Repr

/-- One event, run to completion (R50). -/
def applyEvent : Event → State → Result
  | .step, s => step s
  | .tick, s => .next (tick s)
  | .reset, s => .next (resetEvent s)
  | .setKeys k, s => .next (setKeys k s)
  | .load bytes, s => loadImage bytes s

/-- A run: the events the host issues, in order (R50; spec/70_reset_and_hazards.md R285). -/
def runEvents : List Event → State → Result
  | [], s => .next s
  | e :: es, s =>
    match applyEvent e s with
    | .next t => runEvents es t
    | .fault r => .fault r
    | .refused r => .refused r

/-- The sound output, a level: `ST > 0` (spec/60_exceptions.md R263). -/
def soundOn (s : State) : Bool := decide (s.st.toNat > 0)

end Sys2Proof.Machine
end

