-- ==== Sys2Proof/Safety.lean ====
section
/-!
DEFINITION. The terms the statements use: the invariants of spec/10_state.md R35, the frame of an instruction after the
table of R22, the parked state of spec/70_reset_and_hazards.md R285, and the closed form of a sprite's pixels.
-/
namespace Sys2Proof.Machine

/-! ## The invariants of R35 -/

/-- R35, and the canonical form of memory. The other invariants of R35 hold by the types of `State`. -/
structure State.Inv (s : State) : Prop where
  pc_lt : s.pc.toNat < 4096
  sp_le : s.sp.toNat ≤ 16
  slot_lt : ∀ k : Fin 16, (s.slot k).toNat < 4096
  mem_wf : s.mem.wf = true

/-! ## Frames -/

/-- What an instruction may write besides the pc. Registers and stack slots are listed, memory bytes are listed by
address; the keypad is written by no instruction (spec/10_state.md R31) and so is not here. -/
structure Footprint where
  regs : List Reg := []
  index : Bool := false
  sp : Bool := false
  slots : List Nat := []
  delay : Bool := false
  sound : Bool := false
  wait : Bool := false
  bytes : List Nat := []
  display : Bool := false
  diag : Bool := false
  draws : Bool := false
deriving DecidableEq, Repr

/-- `t` is `s` outside the footprint; the pc may change. Every byte of memory outside the listed addresses reads as
before; `wait` stands for the mode and the key snapshot. -/
structure Frame (f : Footprint) (s t : State) : Prop where
  regs : ∀ r, r ∉ f.regs → t.reg r = s.reg r
  index : f.index = false → t.i = s.i
  sp : f.sp = false → t.sp = s.sp
  slots : ∀ k, k ∉ f.slots → t.slot k = s.slot k
  delay : f.delay = false → t.dt = s.dt
  sound : f.sound = false → t.st = s.st
  mode : f.wait = false → t.mode = s.mode
  snapshot : f.wait = false → t.ks = s.ks
  bytes : ∀ a, a ∉ f.bytes → t.mem.read a = s.mem.read a
  display : f.display = false → t.fb = s.fb
  keys : t.keys = s.keys
  diag : f.diag = false → t.diag = s.diag
  draws : f.draws = false → t.draws = s.draws

/-- V0 to Vx, the registers LD Vx, [I] writes (spec/43_index_memory.md R195). -/
def regsTo (x : Reg) : List Reg := (List.finRange 16).filter (· ≤ x)

/-- `A(I)` to `A(I + len - 1)`, the bytes an I-based store of `len` bytes writes (spec/20_memory.md R62, R65). -/
def State.storedAt (s : State) (len : Nat) : List Nat := (List.range len).map s.indexAddr

/-- The writes column of the table of spec/10_state.md R22, with the condition records of spec/60_exceptions.md R252 and the
draw of spec/42_alu.md R172. `s` is the state after fetch. -/
def footprint (i : Instr) (s : State) : Footprint :=
  match i with
  | .cls => { display := true }
  | .ret => { sp := true, diag := true }
  | .jp _ => {}
  | .call _ => { sp := true, slots := [s.sp.toNat], diag := true }
  | .seImm _ _ => {}
  | .sneImm _ _ => {}
  | .seReg _ _ => {}
  | .ldImm x _ => { regs := [x] }
  | .addImm x _ => { regs := [x] }
  | .ldReg x _ => { regs := [x] }
  | .or x _ => { regs := [x] }
  | .and x _ => { regs := [x] }
  | .xor x _ => { regs := [x] }
  | .addReg x _ => { regs := [x, regVF] }
  | .sub x _ => { regs := [x, regVF] }
  | .shr x _ => { regs := [x, regVF] }
  | .subn x _ => { regs := [x, regVF] }
  | .shl x _ => { regs := [x, regVF] }
  | .sneReg _ _ => {}
  | .ldI _ => { index := true }
  | .jpV0 _ => {}
  | .rnd x _ => { regs := [x], draws := true }
  | .drw _ _ _ => { regs := [regVF], display := true }
  | .skp _ => {}
  | .sknp _ => {}
  | .ldVxDt x => { regs := [x] }
  | .ldVxK _ => { wait := true }
  | .ldDtVx _ => { delay := true }
  | .ldStVx _ => { sound := true }
  | .addIVx _ => { index := true }
  | .ldFVx _ => { index := true }
  | .ldBVx _ => { bytes := s.storedAt 3 }
  | .ldMemVx x => { bytes := s.storedAt (x.val + 1) }
  | .ldVxMem x => { regs := regsTo x }

/-! ## Encodings -/

/-- The instruction's row of the opcode table has this mask and this match, its word lies in the row, and the word decodes
to it (spec/30_encoding.md R93). -/
def Encoded (i : Instr) (mask value : Word) : Prop :=
  i.pattern = ⟨mask, value⟩ ∧ ⟨mask, value⟩ ∈ patterns ∧ encode i &&& mask = value ∧ decode (encode i) = .known i

/-! ## Runs -/

/-- Parked: the mode is Running and the word at pc is a jump to pc (spec/70_reset_and_hazards.md R285). -/
def State.parked (s : State) : Prop :=
  s.mode = .running ∧ ∃ nnn : Imm12, decode s.fetchWord = .known (.jp nnn) ∧ nnn.toNat = s.pc.toNat

/-- A run that reported no condition: "no record in DIAG", which a claim must state by itself (R285). -/
def State.quiet (s : State) : Prop := s.diag = []

/-! ## Sprites -/

/-- Some visible 1 bit of the sprite of DRW Vx, Vy, n lies on pixel (r, c), under an edge policy
(spec/44_display.md R211, R212, R213). -/
def State.spriteCovers (s : State) (edge : Config.SpriteEdge) (x y : Reg) (n : Nibble) (r : Fin 32) (c : Fin 64) : Prop :=
  ∃ k < n.toNat, ∃ j < 8, spriteBit (s.mem.read (s.indexAddr k)) j = true ∧
    place edge ((s.reg y).toNat % 32 + k) ((s.reg x).toNat % 64 + j) = some (r, c)

end Sys2Proof.Machine
end

