-- ==== Sys2Proof/Certificates/Slice0/Obligations.lean ====
section
/-!
DEFINITION. The statements for the provers. In the statements about `exec`, `s` is the state after fetch, so that its pc is
the post-fetch pc (spec/40_step_cycle.md R121, R123). Every statement of a result is also a statement of completion:
its conclusion is that exec answers that next state. `Frame` says what is unchanged (Safety.lean).
-/
open Sys2Proof Sys2Proof.Machine

/-! ## Encoding (spec/30_encoding.md) -/

/-- Decoding the word of an instruction gives the instruction back, with every operand at every value; so does decoding its
two bytes in memory order, and the rest of the bytes is left. -/
def Obligations.DecodeOfEncodeIsTheInstruction : Prop :=
  ∀ i : Instr, decode (encode i) = .known i ∧
    ∀ rest : List Byte, decodeBytes (encodeBytes i ++ rest) = some (.known i, rest)

/-- A word that decodes to an instruction is that instruction's word: no bit of a known word is dropped. That the y of SHR
and SHL is kept too is the model's choice (log entry 27, DESIGN CHOICE): R92 says only that it is ignored. -/
def Obligations.EncodeOfDecodeIsTheWord : Prop :=
  ∀ (op : Word) (i : Instr), decode op = .known i → encode i = op

/-- R94: each word matches at most one row of R93. -/
def Obligations.OpcodeRowsAreDisjoint : Prop :=
  ∀ (op : Word) (p q : Pattern), p ∈ patterns → q ∈ patterns → p.accepts op = true → q.accepts op = true → p = q

/-- R93: a word decodes to an instruction exactly when a row of the table matches it, and the instruction is one of that
row. -/
def Obligations.DecodeFollowsTheOpcodeTable : Prop :=
  ∀ op : Word,
    (∀ i, decode op = .known i → i.pattern ∈ patterns ∧ i.pattern.accepts op = true) ∧
    (∀ p, p ∈ patterns → p.accepts op = true → ∃ i, decode op = .known i ∧ i.pattern = p)

/-- R95: the unknown words are exactly those of its table, by d1; they are reported under their own word. -/
def Obligations.UnknownWordsAreTheClassesOfTheTable : Prop :=
  ∀ op : Word,
    ((∃ op', decode op = .unknownOpcode op') ↔
      ((opD1 op = 0x0 ∧ op ≠ 0x00E0 ∧ op ≠ 0x00EE) ∨
       (opD1 op = 0x5 ∧ opN op ≠ 0x0) ∨
       (opD1 op = 0x8 ∧ opN op ∈ [0x8#4, 0x9#4, 0xA#4, 0xB#4, 0xC#4, 0xD#4, 0xF#4]) ∨
       (opD1 op = 0x9 ∧ opN op ≠ 0x0) ∨
       (opD1 op = 0xE ∧ opNN op ∉ [0x9E#8, 0xA1#8]) ∨
       (opD1 op = 0xF ∧ opNN op ∉ [0x07#8, 0x0A#8, 0x15#8, 0x18#8, 0x1E#8, 0x29#8, 0x33#8, 0x55#8, 0x65#8]))) ∧
    (∀ op', decode op = .unknownOpcode op' → op' = op)

/-- Words written out bit by bit from the encodings of R91 and R93, one or more of each family, decode to the instructions
they stand for, and a word of no row is unknown. A sanity statement. -/
def Obligations.WordsOfTheTableDecode : Prop :=
  decode 0b0000000011100000#16 = .known .cls ∧
  decode 0b0000000011101110#16 = .known .ret ∧
  decode 0b0010001000010000#16 = .known (.call 0x210) ∧
  decode 0b0011001100010010#16 = .known (.seImm 3 0x12) ∧
  decode 0b0110101010011100#16 = .known (.ldImm 10 0x9C) ∧
  decode 0b1000000100100100#16 = .known (.addReg 1 2) ∧
  decode 0b1010001100000000#16 = .known (.ldI 0x300) ∧
  decode 0b1101000100100101#16 = .known (.drw 1 2 5) ∧
  decode 0b1110000110011110#16 = .known (.skp 1) ∧
  decode 0b1111101000110011#16 = .known (.ldBVx 10) ∧
  decode 0b0000000000000000#16 = .unknownOpcode 0x0000

/-! ## The step cycle (spec/40_step_cycle.md) -/

/-- R120, R121: in the mode Running, when the fetched word decodes to an instruction, a step is exec of it on the state
whose pc is advanced by 2 mod 4096 (the spec's decision D1, log entry 5) and which is otherwise as it was. -/
def Obligations.StepRunsTheDecodedInstruction : Prop :=
  ∀ (s : State) (i : Instr), s.mode = .running → decode s.fetchWord = .known i →
    step s = exec i { s with pc := BitVec.ofNat 16 ((s.pc.toNat + 2) % 4096) }

/-- R63, R62: the word a step fetches is big-endian, the byte at the lower address in bits 15 to 8, and both addresses are
taken mod 4096 (the spec's decision D2, log entry 2). -/
def Obligations.FetchedWordIsBigEndian : Prop :=
  ∀ s : State, s.fetchWord.toNat =
    256 * (s.mem.read (s.pc.toNat % 4096)).toNat + (s.mem.read ((s.pc.toNat + 1) % 4096)).toNat

/-- R256, R253: an unknown opcode is reported with its word and its fetch address and is otherwise a no-op past which the
pc has advanced. The form of the record is the spec's decision D12 (log entry 11), mod 4096 is D1 (log entry 5). -/
def Obligations.UnknownOpcodeIsReportedAndSkipped : Prop :=
  ∀ s : State, s.mode = .running → s.pc.toNat < 4096 → decode s.fetchWord = .unknownOpcode s.fetchWord →
    step s = .next { s with
      pc := BitVec.ofNat 16 ((s.pc.toNat + 2) % 4096)
      diag := s.diag ++ [⟨.unknownOpcode, s.fetchWord, s.pc⟩] }

/-- R125, R250: a step never suspends and never fails: every instruction and every step completes, in every state. -/
def Obligations.EveryStepCompletes : Prop :=
  (∀ (i : Instr) (s : State), ∃ t, exec i s = .next t) ∧ ∀ s : State, ∃ t, step s = .next t

/-- R35: reset meets the invariants. -/
def Obligations.ResetMeetsTheInvariants : Prop := State.reset.Inv

/-- R35: every step keeps the invariants: SP at most 16, the pc and every stack slot below 4096 (D1, log
entry 5), memory canonical (log entry 23). -/
def Obligations.StepKeepsTheInvariants : Prop :=
  ∀ s t : State, s.Inv → step s = .next t → t.Inv

/-- R35, R50: every run of host events completes and keeps the invariants, in whatever order the host issues them; an image
too long for memory never reaches the core (R55). -/
def Obligations.EveryRunOfEventsKeepsTheInvariants : Prop :=
  ∀ (es : List Event) (s : State), s.Inv → (∀ bytes, Event.load bytes ∈ es → bytes.length ≤ 3584) →
    ∃ t, runEvents es s = .next t ∧ t.Inv

/-- R22, R127, R31: an instruction changes only what its row of the table of R22 names (and the pc); no instruction
writes the keypad. -/
def Obligations.NoInstructionWritesOutsideItsFootprint : Prop :=
  ∀ (i : Instr) (s t : State), exec i s = .next t → Frame (footprint i s) s t

/-- R32, R257: DIAG is append-only and a step appends at most one record. -/
def Obligations.StepAppendsAtMostOneRecord : Prop :=
  ∀ s t : State, step s = .next t → t.diag = s.diag ∨ ∃ r, t.diag = s.diag ++ [r]

/-- R253, R257, R258: conditions are precise. A step that reports a condition was a RET on an empty stack, a CALL on a full
one or an unknown word; it names the word and its fetch address, and no other effect than the pc's advance has happened.
Records as D12 has them (log entry 11), mod 4096 D1 (log entry 5). -/
def Obligations.ConditionsArePrecise : Prop :=
  ∀ s t : State, s.pc.toNat < 4096 → step s = .next t → t.diag ≠ s.diag →
    s.mode = .running ∧ ∃ kind,
      t = { s with
        pc := BitVec.ofNat 16 ((s.pc.toNat + 2) % 4096)
        diag := s.diag ++ [⟨kind, s.fetchWord, s.pc⟩] } ∧
      ((kind = .stackUnderflow ∧ s.fetchWord = 0x00EE ∧ s.sp = 0) ∨
       (kind = .stackOverflow ∧ s.fetchWord &&& 0xF000 = 0x2000 ∧ s.sp = 16) ∨
       (kind = .unknownOpcode ∧ knownWord s.fetchWord = false))

/-- R31, R54, R172: no step writes the keypad, and only Cxnn takes a draw, one each time. -/
def Obligations.StepLeavesKeysAndTakesDrawsOnlyForRnd : Prop :=
  ∀ s t : State, step s = .next t → t.keys = s.keys ∧
    (t.draws = s.draws ∨
      (s.mode = .running ∧ ∃ x nn, decode s.fetchWord = .known (.rnd x nn)) ∧ t.draws = s.draws + 1)

/-- R285 (D23, log entry 25; D1, log entry 5): from a parked state every step leaves the whole state unchanged. -/
def Obligations.ParkedStepChangesNothing : Prop :=
  ∀ s : State, s.parked → step s = .next s

/-! ## Memory (spec/20_memory.md) -/

/-- R71: a read gives the byte of the most recent write to its address; a write to another address does not matter; and a
write keeps the canonical form. -/
def Obligations.MemoryReadsTheLastWrite : Prop :=
  ∀ (m : Memory) (a : Nat) (b : Byte), m.wf = true → a < 4096 →
    (m.write a b).wf = true ∧ (m.write a b).read a = b ∧
    ∀ a', a' ≠ a → (m.write a b).read a' = m.read a'

/-- The model's canonical form: two canonical memories that read the same at each of the 4096 addresses are equal data. -/
def Obligations.CanonicalMemoriesWithEqualReadsAreEqual : Prop :=
  ∀ m m' : Memory, m.wf = true → m'.wf = true → (∀ a, a < 4096 → m.read a = m'.read a) → m = m'

/-- R73 (D17, log entry 14): a store by Fx55 at the pc is seen by the next fetch, with nothing in between. -/
def Obligations.StoredWordIsFetchedNext : Prop :=
  ∀ (s : State) (x : Reg), s.mem.wf = true → 1 ≤ x.val → s.pc.toNat < 4096 → s.indexAddr 0 = s.pc.toNat →
    ∃ t, exec (.ldMemVx x) s = .next t ∧
      t.fetchWord.toNat = 256 * (s.reg 0).toNat + (s.reg 1).toNat

/-- R62, R7 (D2, log entry 2): the two values of MEM_OOB for the accesses e to e + len - 1 of a step. Under `wrap` the
step goes on whatever they are; under `fault` it goes on when all of them are below 4096 and faults when one is not. -/
def Obligations.AccessPastTheEndFollowsThePolicy : Prop :=
  ∀ (e len : Nat) (go : Result),
    guardRange .wrap e len go = go ∧
    ((∀ k < len, e + k < 4096) → guardRange .fault e len go = go) ∧
    ((∃ k < len, 4096 ≤ e + k) → ∃ a, guardRange .fault e len go = .fault (.memoryOutOfRange a))

/-! ## Control flow (spec/41_control_flow.md) -/

/-- R140, R25 (slot layout: D11, log entry 10): a RET on a stack that is not empty takes SP down by one and the pc to the
top slot, which keeps its value. -/
def Obligations.RetPopsTheReturnAddress : Prop :=
  ∀ s : State, s.Inv → s.sp.toNat ≠ 0 →
    ∃ t, exec .ret s = .next t ∧ t.sp.toNat = s.sp.toNat - 1 ∧ t.pc = s.slot (s.sp.toNat - 1) ∧
      Encoded .ret 0xFFFF 0x00EE ∧ Frame { sp := true } s t

/-- R254, R140, C10: a RET on an empty stack is reported, with the fetch address, and nothing else changes (record: D12,
log entry 11). -/
def Obligations.RetOnEmptyStackIsReported : Prop :=
  ∀ s : State, s.sp = 0 →
    exec .ret s = .next { s with
      diag := s.diag ++ [⟨.stackUnderflow, 0x00EE, BitVec.ofNat 16 ((s.pc.toNat + 4094) % 4096)⟩] }

/-- R142 (slot layout: D11, log entry 10): a CALL on a stack that is not full pushes the post-fetch pc and jumps. -/
def Obligations.CallPushesTheReturnAddress : Prop :=
  ∀ (nnn : Imm12) (s : State), s.sp.toNat < 16 →
    ∃ t, exec (.call nnn) s = .next t ∧ t.pc.toNat = nnn.toNat ∧ t.sp.toNat = s.sp.toNat + 1 ∧
      t.slot s.sp.toNat = s.pc ∧ Encoded (.call nnn) 0xF000 0x2000 ∧
      Frame { sp := true, slots := [s.sp.toNat] } s t

/-- R255, R142: a CALL on a full stack is reported, with its word and fetch address, and nothing else changes (record: D12,
log entry 11). -/
def Obligations.CallOnFullStackIsReported : Prop :=
  ∀ (nnn : Imm12) (s : State), s.sp = 16 →
    exec (.call nnn) s = .next { s with
      diag := s.diag ++ [⟨.stackOverflow, 0x2000 ||| nnn.setWidth 16, BitVec.ofNat 16 ((s.pc.toNat + 4094) % 4096)⟩] }

/-- R141: a jump sets the pc to nnn, zero-extended; an odd target and a target below 0x200 are targets like any other. -/
def Obligations.JumpSetsThePc : Prop :=
  ∀ (nnn : Imm12) (s : State),
    exec (.jp nnn) s = .next { s with pc := nnn.setWidth 16 } ∧ Encoded (.jp nnn) 0xF000 0x1000

/-- R147: the jump with offset adds V0, always, and reduces mod 4096 (D1, log entry 5). -/
def Obligations.JumpWithOffsetAddsV0 : Prop :=
  ∀ (nnn : Imm12) (s : State),
    exec (.jpV0 nnn) s = .next { s with pc := BitVec.ofNat 16 ((nnn.toNat + (s.reg 0).toNat) % 4096) } ∧
    Encoded (.jpV0 nnn) 0xF000 0xB000

/-- R143, R144, R124: the skips on a byte move the pc on by 2 mod 4096 (D1, log entry 5) exactly when Vx equals, or does
not equal, the byte; nothing else changes. -/
def Obligations.ImmediateSkipsCompareWithVx : Prop :=
  ∀ (x : Reg) (nn : Byte) (s : State),
    let skipped := { s with pc := BitVec.ofNat 16 ((s.pc.toNat + 2) % 4096) }
    (s.reg x = nn → exec (.seImm x nn) s = .next skipped ∧ exec (.sneImm x nn) s = .next s) ∧
    (s.reg x ≠ nn → exec (.seImm x nn) s = .next s ∧ exec (.sneImm x nn) s = .next skipped) ∧
    Encoded (.seImm x nn) 0xF000 0x3000 ∧ Encoded (.sneImm x nn) 0xF000 0x4000

/-- R145, R146, R124: the skips on two registers, likewise (mod 4096: D1, log entry 5). -/
def Obligations.RegisterSkipsCompareVxAndVy : Prop :=
  ∀ (x y : Reg) (s : State),
    let skipped := { s with pc := BitVec.ofNat 16 ((s.pc.toNat + 2) % 4096) }
    (s.reg x = s.reg y → exec (.seReg x y) s = .next skipped ∧ exec (.sneReg x y) s = .next s) ∧
    (s.reg x ≠ s.reg y → exec (.seReg x y) s = .next s ∧ exec (.sneReg x y) s = .next skipped) ∧
    Encoded (.seReg x y) 0xF00F 0x5000 ∧ Encoded (.sneReg x y) 0xF00F 0x9000

/-- R148: a CALL whose target holds 00EE, run by two steps, comes back to the instruction after it, with SP as it was; the
slot it used keeps the return address (D11, log entry 10) and nothing else is changed. -/
def Obligations.CallThenRetComesBack : Prop :=
  ∀ (s : State) (nnn : Imm12), s.mode = .running → s.sp.toNat < 16 →
    decode s.fetchWord = .known (.call nnn) → decode (s.mem.wordAt nnn.toNat) = .known .ret →
    ∃ t u, step s = .next t ∧ t.pc.toNat = nnn.toNat ∧ t.sp.toNat = s.sp.toNat + 1 ∧
      step t = .next u ∧ u.pc.toNat = (s.pc.toNat + 2) % 4096 ∧ u.sp = s.sp ∧
      u.slot s.sp.toNat = u.pc ∧ Frame { slots := [s.sp.toNat] } s u

/-! ## Registers and the ALU (spec/42_alu.md) -/

/-- R161, R163: the loads of a register, from a byte and from a register; VF is a destination like any other. -/
def Obligations.LoadsSetVx : Prop :=
  (∀ (x : Reg) (nn : Byte) (s : State), ∃ t, exec (.ldImm x nn) s = .next t ∧ t.reg x = nn ∧ t.pc = s.pc ∧
    Frame { regs := [x] } s t ∧ Encoded (.ldImm x nn) 0xF000 0x6000) ∧
  (∀ (x y : Reg) (s : State), ∃ t, exec (.ldReg x y) s = .next t ∧ t.reg x = s.reg y ∧ t.pc = s.pc ∧
    Frame { regs := [x] } s t ∧ Encoded (.ldReg x y) 0xF00F 0x8000)

/-- R162: the immediate addition is modular and sets no flag: VF changes only where it is the destination. -/
def Obligations.AddImmediateWrapsWithoutFlag : Prop :=
  ∀ (x : Reg) (nn : Byte) (s : State), ∃ t, exec (.addImm x nn) s = .next t ∧
    (t.reg x).toNat = ((s.reg x).toNat + nn.toNat) % 256 ∧ (x ≠ regVF → t.reg regVF = s.reg regVF) ∧ t.pc = s.pc ∧
    Frame { regs := [x] } s t ∧ Encoded (.addImm x nn) 0xF000 0x7000

/-- R164, R165, R166: OR, AND and XOR, bit by bit, set no flag. -/
def Obligations.LogicOperationsSetNoFlag : Prop :=
  ∀ (x y : Reg) (s : State),
    (∃ t, exec (.or x y) s = .next t ∧
      (∀ k, (t.reg x).getLsbD k = ((s.reg x).getLsbD k || (s.reg y).getLsbD k)) ∧ t.pc = s.pc ∧
      Frame { regs := [x] } s t ∧ Encoded (.or x y) 0xF00F 0x8001) ∧
    (∃ t, exec (.and x y) s = .next t ∧
      (∀ k, (t.reg x).getLsbD k = ((s.reg x).getLsbD k && (s.reg y).getLsbD k)) ∧ t.pc = s.pc ∧
      Frame { regs := [x] } s t ∧ Encoded (.and x y) 0xF00F 0x8002) ∧
    (∃ t, exec (.xor x y) s = .next t ∧
      (∀ k, (t.reg x).getLsbD k = ((s.reg x).getLsbD k ^^ (s.reg y).getLsbD k)) ∧ t.pc = s.pc ∧
      Frame { regs := [x] } s t ∧ Encoded (.xor x y) 0xF00F 0x8003)

/-- R167: the register addition is mod 256 and VF is the carry, 1 exactly when the exact sum is above 255. That the flag
has the last word when x is VF is the spec's own choice (R126, D5, log entry 8). -/
def Obligations.AddSetsTheCarry : Prop :=
  ∀ (x y : Reg) (s : State), ∃ t, exec (.addReg x y) s = .next t ∧
    (x ≠ regVF → (t.reg x).toNat = ((s.reg x).toNat + (s.reg y).toNat) % 256) ∧
    t.reg regVF = (if (s.reg x).toNat + (s.reg y).toNat > 255 then 1 else 0) ∧ t.pc = s.pc ∧
    Frame { regs := [x, regVF] } s t ∧ Encoded (.addReg x y) 0xF00F 0x8004

/-- R168, R170: the subtractions are mod 256 and VF is 1 exactly when there is no borrow. That the flag has the last word
when x is VF is the spec's own choice (R126, D5, log entry 8). -/
def Obligations.SubtractionsSetNoBorrow : Prop :=
  ∀ (x y : Reg) (s : State),
    (∃ t, exec (.sub x y) s = .next t ∧
      (x ≠ regVF → (t.reg x).toNat = ((s.reg x).toNat + 256 - (s.reg y).toNat) % 256) ∧
      t.reg regVF = (if (s.reg x).toNat ≥ (s.reg y).toNat then 1 else 0) ∧ t.pc = s.pc ∧
      Frame { regs := [x, regVF] } s t ∧ Encoded (.sub x y) 0xF00F 0x8005) ∧
    (∃ t, exec (.subn x y) s = .next t ∧
      (x ≠ regVF → (t.reg x).toNat = ((s.reg y).toNat + 256 - (s.reg x).toNat) % 256) ∧
      t.reg regVF = (if (s.reg y).toNat ≥ (s.reg x).toNat then 1 else 0) ∧ t.pc = s.pc ∧
      Frame { regs := [x, regVF] } s t ∧ Encoded (.subn x y) 0xF00F 0x8007)

/-- R169, R171: the shifts read Vx alone (the result does not depend on y), are logical, by one place, and VF is the bit
shifted out. That the flag has the last word when x is VF is the spec's own choice (R126, D5, log entry 8). -/
def Obligations.ShiftsSetTheBitShiftedOut : Prop :=
  ∀ (x y : Reg) (s : State),
    (∃ t, exec (.shr x y) s = .next t ∧
      (x ≠ regVF → (t.reg x).toNat = (s.reg x).toNat / 2) ∧
      (t.reg regVF).toNat = (s.reg x).toNat % 2 ∧ t.pc = s.pc ∧
      Frame { regs := [x, regVF] } s t ∧ Encoded (.shr x y) 0xF00F 0x8006) ∧
    (∃ t, exec (.shl x y) s = .next t ∧
      (x ≠ regVF → (t.reg x).toNat = 2 * (s.reg x).toNat % 256) ∧
      (t.reg regVF).toNat = (s.reg x).toNat / 128 ∧ t.pc = s.pc ∧
      Frame { regs := [x, regVF] } s t ∧ Encoded (.shl x y) 0xF00F 0x800E)

/-- R172 (D14, log entry 1): a random byte under a mask: some byte r, the fresh draw, gives Vx = r AND nn, and the draw is
taken. The draw is a free value, so the statement holds for every one. -/
def Obligations.RandomByteIsMasked : Prop :=
  ∀ (x : Reg) (nn : Byte) (s : State), ∃ t, exec (.rnd x nn) s = .next t ∧
    t.reg x = Config.draw8 s.draws &&& nn ∧ t.draws = s.draws + 1 ∧
    (∀ k, nn.getLsbD k = false → (t.reg x).getLsbD k = false) ∧ t.pc = s.pc ∧
    Frame { regs := [x], draws := true } s t ∧ Encoded (.rnd x nn) 0xF000 0xC000

/-! ## The index register and memory operations (spec/43_index_memory.md) -/

/-- R190: LD I, nnn. -/
def Obligations.IndexIsLoaded : Prop :=
  ∀ (nnn : Imm12) (s : State), ∃ t, exec (.ldI nnn) s = .next t ∧ t.i.toNat = nnn.toNat ∧ t.pc = s.pc ∧
    Frame { index := true } s t ∧ Encoded (.ldI nnn) 0xF000 0xA000

/-- R191 (D3, log entry 6): ADD I, Vx wraps mod 65536 and changes no flag. -/
def Obligations.IndexIsAddedTo : Prop :=
  ∀ (x : Reg) (s : State), ∃ t, exec (.addIVx x) s = .next t ∧
    t.i.toNat = (s.i.toNat + (s.reg x).toNat) % 65536 ∧ t.pc = s.pc ∧
    Frame { index := true } s t ∧ Encoded (.addIVx x) 0xF0FF 0xF01E

/-- R192 (layout: D8, log entry 4): LD F, Vx points I at the glyph of the low nibble, 5 bytes a glyph from 0x000. -/
def Obligations.IndexPointsAtTheGlyph : Prop :=
  ∀ (x : Reg) (s : State), ∃ t, exec (.ldFVx x) s = .next t ∧
    t.i.toNat = 5 * ((s.reg x).toNat % 16) ∧ t.pc = s.pc ∧
    Frame { index := true } s t ∧ Encoded (.ldFVx x) 0xF0FF 0xF029

/-- R193: the three BCD digits are stored at A(I), A(I + 1), A(I + 2), hundreds first, I unchanged; every other byte reads
as before. Addresses mod 4096: D2, log entry 2. -/
def Obligations.BcdDigitsAreStored : Prop :=
  ∀ (x : Reg) (s : State), s.mem.wf = true →
    ∃ t, exec (.ldBVx x) s = .next t ∧
      (t.mem.read (s.indexAddr 0)).toNat = (s.reg x).toNat / 100 ∧
      (t.mem.read (s.indexAddr 1)).toNat = (s.reg x).toNat / 10 % 10 ∧
      (t.mem.read (s.indexAddr 2)).toNat = (s.reg x).toNat % 10 ∧ t.pc = s.pc ∧
      Frame { bytes := [s.indexAddr 0, s.indexAddr 1, s.indexAddr 2] } s t ∧ Encoded (.ldBVx x) 0xF0FF 0xF033

/-- R194: V0 to Vx are stored from A(I) up, I unchanged (D4, log entry 7); every other byte reads as before. Addresses
mod 4096: D2, log entry 2. -/
def Obligations.RegistersAreStored : Prop :=
  ∀ (x : Reg) (s : State), s.mem.wf = true →
    ∃ t, exec (.ldMemVx x) s = .next t ∧
      (∀ k : Reg, k ≤ x → t.mem.read (s.indexAddr k.val) = s.reg k) ∧ t.pc = s.pc ∧
      Frame { bytes := s.storedAt (x.val + 1) } s t ∧ Encoded (.ldMemVx x) 0xF0FF 0xF055

/-- R195: V0 to Vx are loaded from A(I) up, I unchanged (D4, log entry 7); the registers above x keep their values.
Addresses mod 4096: D2, log entry 2. -/
def Obligations.RegistersAreLoaded : Prop :=
  ∀ (x : Reg) (s : State), ∃ t, exec (.ldVxMem x) s = .next t ∧
    (∀ k : Reg, k ≤ x → t.reg k = s.mem.read (s.indexAddr k.val)) ∧
    (∀ k : Reg, x < k → t.reg k = s.reg k) ∧ t.pc = s.pc ∧
    Frame { regs := regsTo x } s t ∧ Encoded (.ldVxMem x) 0xF0FF 0xF065

/-- R194, R195: registers stored by Fx55 come back by Fx65 with the same x and I, whatever V0 to Vx became in between
(here: any state with the same memory and I). I is unchanged by D4 (log entry 7), addresses are mod 4096 by D2 (log
entry 2). -/
def Obligations.StoreThenLoadRestoresRegisters : Prop :=
  ∀ (x : Reg) (s : State), s.mem.wf = true →
    ∃ t, exec (.ldMemVx x) s = .next t ∧
      ∀ u : State, u.mem = t.mem → u.i = t.i →
        ∃ w, exec (.ldVxMem x) u = .next w ∧ ∀ k : Reg, k ≤ x → w.reg k = s.reg k

/-! ## The display (spec/44_display.md) -/

/-- R210: CLS turns every pixel off and changes nothing else; VF is not changed. -/
def Obligations.ClearTurnsEveryPixelOff : Prop :=
  ∀ s : State, ∃ t, exec .cls s = .next t ∧ (∀ r c, t.fb.pixel r c = false) ∧ t.pc = s.pc ∧
    Frame { display := true } s t ∧ Encoded .cls 0xFFFF 0x00E0

/-- R211, R213: DRW flips exactly the pixels under a visible 1 bit of the sprite, whose row k is the byte at A(I + k) with
bit 7 leftmost, placed at (Vy mod 32, Vx mod 64), and VF is 1 exactly when one of them was on. Pixels past column 63 or
row 31 are dropped: SPRITE_EDGE = clip (D6, log entry 3); the bit order is D7 (log entry 9), addresses mod 4096 D2 (log
entry 2). -/
def Obligations.DrawXorsTheVisiblePixels : Prop :=
  ∀ (x y : Reg) (n : Nibble) (s : State),
    let r0 := (s.reg y).toNat % 32
    let c0 := (s.reg x).toNat % 64
    let lit := fun (r : Fin 32) (c : Fin 64) => r0 ≤ r.val ∧ r.val < r0 + n.toNat ∧ c0 ≤ c.val ∧ c.val < c0 + 8 ∧
      (s.mem.read ((s.i.toNat + (r.val - r0)) % 4096)).getLsbD (7 - (c.val - c0)) = true
    ∃ t, exec (.drw x y n) s = .next t ∧
      (∀ r c, (lit r c → t.fb.pixel r c = !s.fb.pixel r c) ∧ (¬ lit r c → t.fb.pixel r c = s.fb.pixel r c)) ∧
      ((∃ r c, lit r c ∧ s.fb.pixel r c = true) → t.reg regVF = 1) ∧
      ((¬ ∃ r c, lit r c ∧ s.fb.pixel r c = true) → t.reg regVF = 0) ∧ t.pc = s.pc ∧
      Frame { regs := [regVF], display := true } s t ∧ Encoded (.drw x y n) 0xF000 0xD000

/-- R211, R212: under either edge policy (D6, log entry 3) the loop of R211 flips exactly the pixels that `place` puts a 1
bit of the sprite on, each once, and `hit` says whether one of them was on. `place` is taken as defined after R212. The bit
order is D7 (log entry 9, PRESUMED), addresses mod 4096 D2 (log entry 2). -/
def Obligations.DrawFollowsEitherEdgePolicy : Prop :=
  ∀ (edge : Config.SpriteEdge) (x y : Reg) (n : Nibble) (s : State),
    (∀ r c, (s.spriteCovers edge x y n r c → (s.drawn edge x y n).fb.pixel r c = !s.fb.pixel r c) ∧
      (¬ s.spriteCovers edge x y n r c → (s.drawn edge x y n).fb.pixel r c = s.fb.pixel r c)) ∧
    ((s.drawn edge x y n).hit = true ↔ ∃ r c, s.spriteCovers edge x y n r c ∧ s.fb.pixel r c = true)

/-- R214: drawing is self-inverse. With x and y other than VF, a second DRW restores every pixel, and it reports a collision
exactly when a visible 1 bit of the sprite fell on a pixel that was off before the first. With x or y = VF the law fails, as
R214 says, since the first draw writes VF. That both draws complete is D2 (log entry 2); the visible pixels are those of D6
(log entry 3) and D7 (log entry 9, PRESUMED). -/
def Obligations.DrawTwiceRestoresTheDisplay : Prop :=
  ∀ (x y : Reg) (n : Nibble) (s : State), x ≠ regVF → y ≠ regVF →
    ∃ t u, exec (.drw x y n) s = .next t ∧ exec (.drw x y n) t = .next u ∧ u.fb = s.fb ∧
      (u.reg regVF = 1 ↔ ∃ r c, s.spriteCovers Config.spriteEdge x y n r c ∧ s.fb.pixel r c = false) ∧
      Frame { regs := [regVF] } s u

/-! ## Keypad and timers (spec/45_keypad_timers.md) -/

/-- R230, R231, R124: the skips on a key test the level of the key named by the low nibble of Vx (mod 4096: D1, log
entry 5); nothing else changes. -/
def Obligations.KeySkipsTestTheKey : Prop :=
  ∀ (x : Reg) (s : State),
    let skipped := { s with pc := BitVec.ofNat 16 ((s.pc.toNat + 2) % 4096) }
    let key := s.keys.getLsbD ((s.reg x).toNat % 16)
    (key = true → exec (.skp x) s = .next skipped ∧ exec (.sknp x) s = .next s) ∧
    (key = false → exec (.skp x) s = .next s ∧ exec (.sknp x) s = .next skipped) ∧
    Encoded (.skp x) 0xF0FF 0xE09E ∧ Encoded (.sknp x) 0xF0FF 0xE0A1

/-- R232, R235, R236: the moves between a register and the timers; each changes its destination alone. -/
def Obligations.TimersAreReadAndSet : Prop :=
  ∀ (x : Reg) (s : State),
    (∃ t, exec (.ldVxDt x) s = .next t ∧ t.reg x = s.dt ∧ t.pc = s.pc ∧
      Frame { regs := [x] } s t ∧ Encoded (.ldVxDt x) 0xF0FF 0xF007) ∧
    (∃ t, exec (.ldDtVx x) s = .next t ∧ t.dt = s.reg x ∧ t.pc = s.pc ∧
      Frame { delay := true } s t ∧ Encoded (.ldDtVx x) 0xF0FF 0xF015) ∧
    (∃ t, exec (.ldStVx x) s = .next t ∧ t.st = s.reg x ∧ (soundOn t = true ↔ s.reg x ≠ 0) ∧ t.pc = s.pc ∧
      Frame { sound := true } s t ∧ Encoded (.ldStVx x) 0xF0FF 0xF018)

/-- R233 (snapshot: D10, log entry 13): Fx0A enters AwaitingKey(x) with the keys held now as the snapshot; Vx is not
written. -/
def Obligations.KeyWaitBegins : Prop :=
  ∀ (x : Reg) (s : State), ∃ t, exec (.ldVxK x) s = .next t ∧ t.mode = .awaitingKey x ∧ t.ks = s.keys ∧ t.pc = s.pc ∧
    Frame { wait := true } s t ∧ Encoded (.ldVxK x) 0xF0FF 0xF00A

/-- R234 (D10, log entry 13): a waiting step that sees newly pressed keys writes the lowest-numbered one to Vt and goes back
to Running; no fetch, and the pc stays. -/
def Obligations.WaitTakesTheLowestNewKey : Prop :=
  ∀ (s : State) (t : Reg) (k : Nat), s.mode = .awaitingKey t → k < 16 →
    s.keys.getLsbD k = true → s.ks.getLsbD k = false →
    (∀ j < k, ¬ (s.keys.getLsbD j = true ∧ s.ks.getLsbD j = false)) →
    ∃ u, step s = .next u ∧ u.reg t = BitVec.ofNat 8 k ∧ u.mode = .running ∧ u.ks = s.ks ∧ u.pc = s.pc ∧
      Frame { regs := [t], wait := true } s u

/-- R234 (D10, log entry 13): a waiting step that sees no newly pressed key only samples the keys. -/
def Obligations.WaitWithoutANewKeyOnlySamples : Prop :=
  ∀ (s : State) (t : Reg), s.mode = .awaitingKey t →
    (∀ k < 16, ¬ (s.keys.getLsbD k = true ∧ s.ks.getLsbD k = false)) →
    step s = .next { s with ks := s.keys }

/-- R234, R268, L1-8 (D10, log entry 13): as long as the host only steps and ticks, a wait that has no newly pressed key goes on: the pc, the
mode and every register stay, for however many events. -/
def Obligations.WaitGoesOnUntilANewKey : Prop :=
  ∀ (es : List Event) (s : State) (t : Reg), s.mode = .awaitingKey t → s.keys &&& ~~~s.ks = 0 →
    (∀ e ∈ es, e = .step ∨ e = .tick) →
    ∃ u, runEvents es s = .next u ∧ u.mode = .awaitingKey t ∧
      Frame { delay := true, sound := true, wait := true } s u ∧ u.pc = s.pc

/-! ## Host events (spec/10_state.md, spec/60_exceptions.md, spec/70_reset_and_hazards.md) -/

/-- R262: a tick takes each timer down by one unless it is 0, and changes nothing else. R54: SetKeys writes the keypad and
nothing else. -/
def Obligations.TickAndSetKeysChangeTheirOwnState : Prop :=
  ∀ s : State,
    (∃ t, applyEvent .tick s = .next t ∧
      t.dt.toNat = s.dt.toNat - 1 ∧ t.st.toNat = s.st.toNat - 1 ∧ t.pc = s.pc ∧
      Frame { delay := true, sound := true } s t) ∧
    ∀ k : Word, applyEvent (.setKeys k) s = .next { s with keys := k }

/-- R26, R263: under k ticks each timer counts toward 0 and is then held there, and the sound is on exactly while the sound
timer has not been counted down. -/
def Obligations.TicksHoldTheTimersAtZero : Prop :=
  ∀ (k : Nat) (s : State), ∃ t, runEvents (List.replicate k .tick) s = .next t ∧
    t.dt.toNat = s.dt.toNat - k ∧ t.st.toNat = s.st.toNat - k ∧ (soundOn t = true ↔ k < s.st.toNat) ∧
    t.pc = s.pc ∧ Frame { delay := true, sound := true } s t

/-- R280, R36, R282, R283: from every state, a wait included, Reset gives the reset values and leaves DIAG as it is. The
font bytes are PRESUMED (log entry 4); I, the slots and KS are D18 (log entry 12). -/
def Obligations.ResetGivesTheResetState : Prop :=
  ∀ s : State, ∃ t, applyEvent .reset s = .next t ∧
    (∀ r, t.reg r = 0) ∧ t.i = 0 ∧ t.pc = 0x200 ∧ t.sp = 0 ∧ (∀ k, t.slot k = 0) ∧ t.dt = 0 ∧ t.st = 0 ∧
    t.mode = .running ∧ t.ks = 0 ∧ (∀ a, t.mem.read a = if a < 80 then Config.font.getD a 0 else 0) ∧
    (∀ r c, t.fb.pixel r c = false) ∧ t.keys = 0 ∧ t.diag = s.diag ∧ t.draws = s.draws

/-- R55: Load writes an image of at most 3584 bytes to 0x200 up, verbatim, and nothing else; a longer one, which the host
keeps from the core, the model refuses by name (log entry 18). -/
def Obligations.LoadWritesTheImage : Prop :=
  ∀ (bytes : List Byte) (s : State), s.mem.wf = true →
    (bytes.length ≤ 3584 → ∃ t, applyEvent (.load bytes) s = .next t ∧
      (∀ j (h : j < bytes.length), t.mem.read (0x200 + j) = bytes[j]) ∧ t.mem.wf = true ∧ t.pc = s.pc ∧
      Frame { bytes := (List.range bytes.length).map (0x200 + ·) } s t) ∧
    (3584 < bytes.length → applyEvent (.load bytes) s = .refused (.imageTooLong bytes.length))

/-- R284, R55: after reset and Load, the first step runs the instruction of the first two bytes of the image, at 0x200. -/
def Obligations.LoadedProgramRunsFirst : Prop :=
  ∀ (i : Instr) (rest : List Byte), rest.length ≤ 3582 →
    ∃ t, applyEvent (.load (encodeBytes i ++ rest)) State.reset = .next t ∧
      step t = exec i { t with pc := 0x202 }
end

