-- ==== Sys2Proof/Laws/Decode.lean ====
section
/-!
SUPPORT. The fields of an encoded word and its bits under the table's masks, format by format.
-/
namespace Sys2Proof

theorem extract_above {m n : Nat} (a : BitVec m) (b : BitVec n) (k len : Nat) :
    (a ++ b).extractLsb' (n + k) len = a.extractLsb' k len := by
  ext i h
  simp [BitVec.getLsbD_append, Nat.add_assoc]

theorem extract_below {m n : Nat} (a : BitVec m) (b : BitVec n) (k len : Nat) (h : k + len ≤ n) :
    (a ++ b).extractLsb' k len = b.extractLsb' k len := by
  ext i hi
  simp [BitVec.getLsbD_append, show k + i < n by omega]

theorem append_and_append {m n : Nat} (a c : BitVec m) (b d : BitVec n) :
    (a ++ b) &&& (c ++ d) = (a &&& c) ++ (b &&& d) := by
  ext i hi
  simp only [BitVec.getElem_and, BitVec.getElem_append]
  split <;> simp

/-! ## Format A -/

@[simp] theorem opD1_formatA (d : Nibble) (nnn : Imm12) : opD1 (formatA d nnn) = d :=
  (extract_above d nnn 0 4).trans BitVec.extractLsb'_eq_self

@[simp] theorem opNNN_formatA (d : Nibble) (nnn : Imm12) : opNNN (formatA d nnn) = nnn :=
  (extract_below d nnn 0 12 (by decide)).trans BitVec.extractLsb'_eq_self

theorem formatA_masked (d : Nibble) (nnn : Imm12) : formatA d nnn &&& 0xF000#16 = formatA d 0 :=
  (append_and_append d 0xF#4 nnn 0#12).trans (by rw [BitVec.and_zero, show d &&& 0xF#4 = d from BitVec.and_allOnes]; rfl)

/-! ## Formats XNN and X -/

@[simp] theorem opD1_formatXNN (d : Nibble) (x : Reg) (nn : Byte) : opD1 (formatXNN d x nn) = d :=
  (extract_above (d ++ (BitVec.ofFin x : Nibble)) nn 4 4).trans
    ((extract_above d _ 0 4).trans BitVec.extractLsb'_eq_self)

@[simp] theorem opX_formatXNN (d : Nibble) (x : Reg) (nn : Byte) : opX (formatXNN d x nn) = x :=
  congrArg BitVec.toFin ((extract_above (d ++ (BitVec.ofFin x : Nibble)) nn 0 4).trans
    ((extract_below d _ 0 4 (by decide)).trans BitVec.extractLsb'_eq_self))

@[simp] theorem opNN_formatXNN (d : Nibble) (x : Reg) (nn : Byte) : opNN (formatXNN d x nn) = nn :=
  (extract_below (d ++ (BitVec.ofFin x : Nibble)) nn 0 8 (by decide)).trans BitVec.extractLsb'_eq_self

theorem formatXNN_masked (d : Nibble) (x : Reg) (nn low : Byte) :
    formatXNN d x nn &&& (0xF0#8 ++ low : Word) = formatXNN d 0 (nn &&& low) := by
  have h : (d ++ (BitVec.ofFin x : Nibble)) &&& (0xF#4 ++ 0#4) = d ++ (0#4 : Nibble) := by
    rw [append_and_append, BitVec.and_zero, show d &&& 0xF#4 = d from BitVec.and_allOnes]
  exact (append_and_append (d ++ (BitVec.ofFin x : Nibble)) 0xF0#8 nn low).trans (congrArg (· ++ (nn &&& low)) h)

/-! ## Formats XY and XYN -/

@[simp] theorem opD1_formatXYN (d : Nibble) (x y : Reg) (n : Nibble) : opD1 (formatXYN d x y n) = d :=
  (extract_above (d ++ (BitVec.ofFin x : Nibble) ++ (BitVec.ofFin y : Nibble)) n 8 4).trans
    ((extract_above (d ++ (BitVec.ofFin x : Nibble)) _ 4 4).trans
      ((extract_above d _ 0 4).trans BitVec.extractLsb'_eq_self))

@[simp] theorem opX_formatXYN (d : Nibble) (x y : Reg) (n : Nibble) : opX (formatXYN d x y n) = x :=
  congrArg BitVec.toFin ((extract_above (d ++ (BitVec.ofFin x : Nibble) ++ (BitVec.ofFin y : Nibble)) n 4 4).trans
    ((extract_above (d ++ (BitVec.ofFin x : Nibble)) _ 0 4).trans
      ((extract_below d _ 0 4 (by decide)).trans BitVec.extractLsb'_eq_self)))

@[simp] theorem opY_formatXYN (d : Nibble) (x y : Reg) (n : Nibble) : opY (formatXYN d x y n) = y :=
  congrArg BitVec.toFin ((extract_above (d ++ (BitVec.ofFin x : Nibble) ++ (BitVec.ofFin y : Nibble)) n 0 4).trans
    ((extract_below (d ++ (BitVec.ofFin x : Nibble)) _ 0 4 (by decide)).trans BitVec.extractLsb'_eq_self))

@[simp] theorem opN_formatXYN (d : Nibble) (x y : Reg) (n : Nibble) : opN (formatXYN d x y n) = n :=
  (extract_below (d ++ (BitVec.ofFin x : Nibble) ++ (BitVec.ofFin y : Nibble)) n 0 4 (by decide)).trans
    BitVec.extractLsb'_eq_self

theorem formatXYN_masked (d : Nibble) (x y : Reg) (n low : Nibble) :
    formatXYN d x y n &&& (0xF00#12 ++ low : Word) = formatXYN d 0 0 (n &&& low) := by
  have h : (d ++ (BitVec.ofFin x : Nibble) ++ (BitVec.ofFin y : Nibble)) &&& (0xF#4 ++ 0#4 ++ 0#4)
      = d ++ (0#4 : Nibble) ++ (0#4 : Nibble) := by
    rw [append_and_append, append_and_append, BitVec.and_zero, BitVec.and_zero,
      show d &&& 0xF#4 = d from BitVec.and_allOnes]
  exact (append_and_append (d ++ (BitVec.ofFin x : Nibble) ++ (BitVec.ofFin y : Nibble)) 0xF00#12 n low).trans
    (congrArg (· ++ (n &&& low)) h)

/-! ## A word is made of its fields -/

theorem formatA_fields (op : Word) : formatA (opD1 op) (opNNN op) = op := by
  refine BitVec.eq_of_getLsbD_eq fun i hi => ?_
  refine (BitVec.getLsbD_append (x := op.extractLsb' 12 4) (y := op.extractLsb' 0 12)).trans ?_
  by_cases h : i < 12
  · simp [h]
  · simp [h, show i - 12 < 4 by omega, show 12 + (i - 12) = i by omega]

theorem formatXNN_fields (op : Word) : formatXNN (opD1 op) (opX op) (opNN op) = op := by
  refine BitVec.eq_of_getLsbD_eq fun i hi => ?_
  refine (BitVec.getLsbD_append (x := (op.extractLsb' 12 4 ++ op.extractLsb' 8 4 : BitVec (4 + 4)))
    (y := op.extractLsb' 0 8)).trans ?_
  by_cases h : i < 8
  · simp [h]
  · rw [if_neg h]
    refine (BitVec.getLsbD_append (x := op.extractLsb' 12 4) (y := op.extractLsb' 8 4)).trans ?_
    by_cases h2 : i - 8 < 4
    · simp [h2, show 8 + (i - 8) = i by omega]
    · simp [h2, show i - 8 - 4 < 4 by omega, show 12 + (i - 8 - 4) = i by omega]

theorem opNN_eq_opY_opN (op : Word) : opNN op = ((BitVec.ofFin (opY op) : Nibble) ++ opN op : BitVec (4 + 4)) := by
  refine BitVec.eq_of_getLsbD_eq fun i hi => ?_
  refine Eq.trans ?_ (BitVec.getLsbD_append (x := (BitVec.ofFin (opY op) : Nibble)) (y := opN op)).symm
  rw [show (BitVec.ofFin (opY op) : Nibble) = op.extractLsb' 4 4 from rfl, opN, opNN]
  by_cases h : i < 4
  · simp [h, hi]
  · simp [h, hi, show i - 4 < 4 by omega, show 4 + (i - 4) = i by omega]

theorem formatXYN_fields (op : Word) : formatXYN (opD1 op) (opX op) (opY op) (opN op) = op := by
  refine Eq.trans ?_ (formatXNN_fields op)
  rw [opNN_eq_opY_opN]
  exact BitVec.append_assoc ..

/-! ## Fields under a mask -/

theorem opD1_and (a b : Word) : opD1 (a &&& b) = opD1 a &&& opD1 b := by
  unfold opD1
  ext
  simp

theorem opN_and (a b : Word) : opN (a &&& b) = opN a &&& opN b := by
  unfold opN
  ext
  simp

theorem opNN_and (a b : Word) : opNN (a &&& b) = opNN a &&& opNN b := by
  unfold opNN
  ext
  simp

/-! ## Words and bytes -/

@[simp] theorem wordOfBytes_high_low (op : Word) : wordOfBytes (highByte op) (lowByte op) = op := by
  refine BitVec.eq_of_getLsbD_eq fun i hi => ?_
  rw [wordOfBytes, highByte, lowByte]
  refine (BitVec.getLsbD_append (x := op.extractLsb' 8 8) (y := op.extractLsb' 0 8)).trans ?_
  by_cases h : i < 8
  · simp [h]
  · simp [h, show i - 8 < 8 by omega, show 8 + (i - 8) = i by omega]

@[simp] theorem highByte_wordOfBytes (hi lo : Byte) : highByte (wordOfBytes hi lo) = hi :=
  (extract_above hi lo 0 8).trans BitVec.extractLsb'_eq_self

@[simp] theorem lowByte_wordOfBytes (hi lo : Byte) : lowByte (wordOfBytes hi lo) = lo :=
  (extract_below hi lo 0 8 (by decide)).trans BitVec.extractLsb'_eq_self

end Sys2Proof
end

