-- ==== Sys2Proof/Laws/State.lean ====
section
/-!
SUPPORT. One lemma per field per update, each true by rfl, so that no proof unfolds a record update.
-/
namespace Sys2Proof.Machine

variable (s : State)

/-! ### setReg -/

@[simp] theorem State.setReg_v (x : Reg) (b : Byte) : (s.setReg x b).v = s.v.set x b := rfl
@[simp] theorem State.setReg_i (x : Reg) (b : Byte) : (s.setReg x b).i = s.i := rfl
@[simp] theorem State.setReg_pc (x : Reg) (b : Byte) : (s.setReg x b).pc = s.pc := rfl
@[simp] theorem State.setReg_sp (x : Reg) (b : Byte) : (s.setReg x b).sp = s.sp := rfl
@[simp] theorem State.setReg_stack (x : Reg) (b : Byte) : (s.setReg x b).stack = s.stack := rfl
@[simp] theorem State.setReg_dt (x : Reg) (b : Byte) : (s.setReg x b).dt = s.dt := rfl
@[simp] theorem State.setReg_st (x : Reg) (b : Byte) : (s.setReg x b).st = s.st := rfl
@[simp] theorem State.setReg_mode (x : Reg) (b : Byte) : (s.setReg x b).mode = s.mode := rfl
@[simp] theorem State.setReg_ks (x : Reg) (b : Byte) : (s.setReg x b).ks = s.ks := rfl
@[simp] theorem State.setReg_mem (x : Reg) (b : Byte) : (s.setReg x b).mem = s.mem := rfl
@[simp] theorem State.setReg_fb (x : Reg) (b : Byte) : (s.setReg x b).fb = s.fb := rfl
@[simp] theorem State.setReg_keys (x : Reg) (b : Byte) : (s.setReg x b).keys = s.keys := rfl
@[simp] theorem State.setReg_diag (x : Reg) (b : Byte) : (s.setReg x b).diag = s.diag := rfl
@[simp] theorem State.setReg_draws (x : Reg) (b : Byte) : (s.setReg x b).draws = s.draws := rfl

/-! ### setIndex -/

@[simp] theorem State.setIndex_v (w : Word) : (s.setIndex w).v = s.v := rfl
@[simp] theorem State.setIndex_i (w : Word) : (s.setIndex w).i = w := rfl
@[simp] theorem State.setIndex_pc (w : Word) : (s.setIndex w).pc = s.pc := rfl
@[simp] theorem State.setIndex_sp (w : Word) : (s.setIndex w).sp = s.sp := rfl
@[simp] theorem State.setIndex_stack (w : Word) : (s.setIndex w).stack = s.stack := rfl
@[simp] theorem State.setIndex_dt (w : Word) : (s.setIndex w).dt = s.dt := rfl
@[simp] theorem State.setIndex_st (w : Word) : (s.setIndex w).st = s.st := rfl
@[simp] theorem State.setIndex_mode (w : Word) : (s.setIndex w).mode = s.mode := rfl
@[simp] theorem State.setIndex_ks (w : Word) : (s.setIndex w).ks = s.ks := rfl
@[simp] theorem State.setIndex_mem (w : Word) : (s.setIndex w).mem = s.mem := rfl
@[simp] theorem State.setIndex_fb (w : Word) : (s.setIndex w).fb = s.fb := rfl
@[simp] theorem State.setIndex_keys (w : Word) : (s.setIndex w).keys = s.keys := rfl
@[simp] theorem State.setIndex_diag (w : Word) : (s.setIndex w).diag = s.diag := rfl
@[simp] theorem State.setIndex_draws (w : Word) : (s.setIndex w).draws = s.draws := rfl

/-! ### setPc -/

@[simp] theorem State.setPc_v (e : Nat) : (s.setPc e).v = s.v := rfl
@[simp] theorem State.setPc_i (e : Nat) : (s.setPc e).i = s.i := rfl
@[simp] theorem State.setPc_pc (e : Nat) : (s.setPc e).pc = BitVec.ofNat 16 (e % Config.memSize) := rfl
@[simp] theorem State.setPc_sp (e : Nat) : (s.setPc e).sp = s.sp := rfl
@[simp] theorem State.setPc_stack (e : Nat) : (s.setPc e).stack = s.stack := rfl
@[simp] theorem State.setPc_dt (e : Nat) : (s.setPc e).dt = s.dt := rfl
@[simp] theorem State.setPc_st (e : Nat) : (s.setPc e).st = s.st := rfl
@[simp] theorem State.setPc_mode (e : Nat) : (s.setPc e).mode = s.mode := rfl
@[simp] theorem State.setPc_ks (e : Nat) : (s.setPc e).ks = s.ks := rfl
@[simp] theorem State.setPc_mem (e : Nat) : (s.setPc e).mem = s.mem := rfl
@[simp] theorem State.setPc_fb (e : Nat) : (s.setPc e).fb = s.fb := rfl
@[simp] theorem State.setPc_keys (e : Nat) : (s.setPc e).keys = s.keys := rfl
@[simp] theorem State.setPc_diag (e : Nat) : (s.setPc e).diag = s.diag := rfl
@[simp] theorem State.setPc_draws (e : Nat) : (s.setPc e).draws = s.draws := rfl

/-! ### setDelay -/

@[simp] theorem State.setDelay_v (b : Byte) : (s.setDelay b).v = s.v := rfl
@[simp] theorem State.setDelay_i (b : Byte) : (s.setDelay b).i = s.i := rfl
@[simp] theorem State.setDelay_pc (b : Byte) : (s.setDelay b).pc = s.pc := rfl
@[simp] theorem State.setDelay_sp (b : Byte) : (s.setDelay b).sp = s.sp := rfl
@[simp] theorem State.setDelay_stack (b : Byte) : (s.setDelay b).stack = s.stack := rfl
@[simp] theorem State.setDelay_dt (b : Byte) : (s.setDelay b).dt = b := rfl
@[simp] theorem State.setDelay_st (b : Byte) : (s.setDelay b).st = s.st := rfl
@[simp] theorem State.setDelay_mode (b : Byte) : (s.setDelay b).mode = s.mode := rfl
@[simp] theorem State.setDelay_ks (b : Byte) : (s.setDelay b).ks = s.ks := rfl
@[simp] theorem State.setDelay_mem (b : Byte) : (s.setDelay b).mem = s.mem := rfl
@[simp] theorem State.setDelay_fb (b : Byte) : (s.setDelay b).fb = s.fb := rfl
@[simp] theorem State.setDelay_keys (b : Byte) : (s.setDelay b).keys = s.keys := rfl
@[simp] theorem State.setDelay_diag (b : Byte) : (s.setDelay b).diag = s.diag := rfl
@[simp] theorem State.setDelay_draws (b : Byte) : (s.setDelay b).draws = s.draws := rfl

/-! ### setSound -/

@[simp] theorem State.setSound_v (b : Byte) : (s.setSound b).v = s.v := rfl
@[simp] theorem State.setSound_i (b : Byte) : (s.setSound b).i = s.i := rfl
@[simp] theorem State.setSound_pc (b : Byte) : (s.setSound b).pc = s.pc := rfl
@[simp] theorem State.setSound_sp (b : Byte) : (s.setSound b).sp = s.sp := rfl
@[simp] theorem State.setSound_stack (b : Byte) : (s.setSound b).stack = s.stack := rfl
@[simp] theorem State.setSound_dt (b : Byte) : (s.setSound b).dt = s.dt := rfl
@[simp] theorem State.setSound_st (b : Byte) : (s.setSound b).st = b := rfl
@[simp] theorem State.setSound_mode (b : Byte) : (s.setSound b).mode = s.mode := rfl
@[simp] theorem State.setSound_ks (b : Byte) : (s.setSound b).ks = s.ks := rfl
@[simp] theorem State.setSound_mem (b : Byte) : (s.setSound b).mem = s.mem := rfl
@[simp] theorem State.setSound_fb (b : Byte) : (s.setSound b).fb = s.fb := rfl
@[simp] theorem State.setSound_keys (b : Byte) : (s.setSound b).keys = s.keys := rfl
@[simp] theorem State.setSound_diag (b : Byte) : (s.setSound b).diag = s.diag := rfl
@[simp] theorem State.setSound_draws (b : Byte) : (s.setSound b).draws = s.draws := rfl

/-! ### setMode -/

@[simp] theorem State.setMode_v (m : Mode) : (s.setMode m).v = s.v := rfl
@[simp] theorem State.setMode_i (m : Mode) : (s.setMode m).i = s.i := rfl
@[simp] theorem State.setMode_pc (m : Mode) : (s.setMode m).pc = s.pc := rfl
@[simp] theorem State.setMode_sp (m : Mode) : (s.setMode m).sp = s.sp := rfl
@[simp] theorem State.setMode_stack (m : Mode) : (s.setMode m).stack = s.stack := rfl
@[simp] theorem State.setMode_dt (m : Mode) : (s.setMode m).dt = s.dt := rfl
@[simp] theorem State.setMode_st (m : Mode) : (s.setMode m).st = s.st := rfl
@[simp] theorem State.setMode_mode (m : Mode) : (s.setMode m).mode = m := rfl
@[simp] theorem State.setMode_ks (m : Mode) : (s.setMode m).ks = s.ks := rfl
@[simp] theorem State.setMode_mem (m : Mode) : (s.setMode m).mem = s.mem := rfl
@[simp] theorem State.setMode_fb (m : Mode) : (s.setMode m).fb = s.fb := rfl
@[simp] theorem State.setMode_keys (m : Mode) : (s.setMode m).keys = s.keys := rfl
@[simp] theorem State.setMode_diag (m : Mode) : (s.setMode m).diag = s.diag := rfl
@[simp] theorem State.setMode_draws (m : Mode) : (s.setMode m).draws = s.draws := rfl

/-! ### setSnapshot -/

@[simp] theorem State.setSnapshot_v (w : Word) : (s.setSnapshot w).v = s.v := rfl
@[simp] theorem State.setSnapshot_i (w : Word) : (s.setSnapshot w).i = s.i := rfl
@[simp] theorem State.setSnapshot_pc (w : Word) : (s.setSnapshot w).pc = s.pc := rfl
@[simp] theorem State.setSnapshot_sp (w : Word) : (s.setSnapshot w).sp = s.sp := rfl
@[simp] theorem State.setSnapshot_stack (w : Word) : (s.setSnapshot w).stack = s.stack := rfl
@[simp] theorem State.setSnapshot_dt (w : Word) : (s.setSnapshot w).dt = s.dt := rfl
@[simp] theorem State.setSnapshot_st (w : Word) : (s.setSnapshot w).st = s.st := rfl
@[simp] theorem State.setSnapshot_mode (w : Word) : (s.setSnapshot w).mode = s.mode := rfl
@[simp] theorem State.setSnapshot_ks (w : Word) : (s.setSnapshot w).ks = w := rfl
@[simp] theorem State.setSnapshot_mem (w : Word) : (s.setSnapshot w).mem = s.mem := rfl
@[simp] theorem State.setSnapshot_fb (w : Word) : (s.setSnapshot w).fb = s.fb := rfl
@[simp] theorem State.setSnapshot_keys (w : Word) : (s.setSnapshot w).keys = s.keys := rfl
@[simp] theorem State.setSnapshot_diag (w : Word) : (s.setSnapshot w).diag = s.diag := rfl
@[simp] theorem State.setSnapshot_draws (w : Word) : (s.setSnapshot w).draws = s.draws := rfl

/-! ### setMem -/

@[simp] theorem State.setMem_v (m : Memory) : (s.setMem m).v = s.v := rfl
@[simp] theorem State.setMem_i (m : Memory) : (s.setMem m).i = s.i := rfl
@[simp] theorem State.setMem_pc (m : Memory) : (s.setMem m).pc = s.pc := rfl
@[simp] theorem State.setMem_sp (m : Memory) : (s.setMem m).sp = s.sp := rfl
@[simp] theorem State.setMem_stack (m : Memory) : (s.setMem m).stack = s.stack := rfl
@[simp] theorem State.setMem_dt (m : Memory) : (s.setMem m).dt = s.dt := rfl
@[simp] theorem State.setMem_st (m : Memory) : (s.setMem m).st = s.st := rfl
@[simp] theorem State.setMem_mode (m : Memory) : (s.setMem m).mode = s.mode := rfl
@[simp] theorem State.setMem_ks (m : Memory) : (s.setMem m).ks = s.ks := rfl
@[simp] theorem State.setMem_mem (m : Memory) : (s.setMem m).mem = m := rfl
@[simp] theorem State.setMem_fb (m : Memory) : (s.setMem m).fb = s.fb := rfl
@[simp] theorem State.setMem_keys (m : Memory) : (s.setMem m).keys = s.keys := rfl
@[simp] theorem State.setMem_diag (m : Memory) : (s.setMem m).diag = s.diag := rfl
@[simp] theorem State.setMem_draws (m : Memory) : (s.setMem m).draws = s.draws := rfl

/-! ### setFb -/

@[simp] theorem State.setFb_v (f : Framebuffer) : (s.setFb f).v = s.v := rfl
@[simp] theorem State.setFb_i (f : Framebuffer) : (s.setFb f).i = s.i := rfl
@[simp] theorem State.setFb_pc (f : Framebuffer) : (s.setFb f).pc = s.pc := rfl
@[simp] theorem State.setFb_sp (f : Framebuffer) : (s.setFb f).sp = s.sp := rfl
@[simp] theorem State.setFb_stack (f : Framebuffer) : (s.setFb f).stack = s.stack := rfl
@[simp] theorem State.setFb_dt (f : Framebuffer) : (s.setFb f).dt = s.dt := rfl
@[simp] theorem State.setFb_st (f : Framebuffer) : (s.setFb f).st = s.st := rfl
@[simp] theorem State.setFb_mode (f : Framebuffer) : (s.setFb f).mode = s.mode := rfl
@[simp] theorem State.setFb_ks (f : Framebuffer) : (s.setFb f).ks = s.ks := rfl
@[simp] theorem State.setFb_mem (f : Framebuffer) : (s.setFb f).mem = s.mem := rfl
@[simp] theorem State.setFb_fb (f : Framebuffer) : (s.setFb f).fb = f := rfl
@[simp] theorem State.setFb_keys (f : Framebuffer) : (s.setFb f).keys = s.keys := rfl
@[simp] theorem State.setFb_diag (f : Framebuffer) : (s.setFb f).diag = s.diag := rfl
@[simp] theorem State.setFb_draws (f : Framebuffer) : (s.setFb f).draws = s.draws := rfl

/-! ### setRegs -/

@[simp] theorem State.setRegs_v (bs : List Byte) : (s.setRegs bs).v = setRegsFrom s.v 0 bs := rfl
@[simp] theorem State.setRegs_i (bs : List Byte) : (s.setRegs bs).i = s.i := rfl
@[simp] theorem State.setRegs_pc (bs : List Byte) : (s.setRegs bs).pc = s.pc := rfl
@[simp] theorem State.setRegs_sp (bs : List Byte) : (s.setRegs bs).sp = s.sp := rfl
@[simp] theorem State.setRegs_stack (bs : List Byte) : (s.setRegs bs).stack = s.stack := rfl
@[simp] theorem State.setRegs_dt (bs : List Byte) : (s.setRegs bs).dt = s.dt := rfl
@[simp] theorem State.setRegs_st (bs : List Byte) : (s.setRegs bs).st = s.st := rfl
@[simp] theorem State.setRegs_mode (bs : List Byte) : (s.setRegs bs).mode = s.mode := rfl
@[simp] theorem State.setRegs_ks (bs : List Byte) : (s.setRegs bs).ks = s.ks := rfl
@[simp] theorem State.setRegs_mem (bs : List Byte) : (s.setRegs bs).mem = s.mem := rfl
@[simp] theorem State.setRegs_fb (bs : List Byte) : (s.setRegs bs).fb = s.fb := rfl
@[simp] theorem State.setRegs_keys (bs : List Byte) : (s.setRegs bs).keys = s.keys := rfl
@[simp] theorem State.setRegs_diag (bs : List Byte) : (s.setRegs bs).diag = s.diag := rfl
@[simp] theorem State.setRegs_draws (bs : List Byte) : (s.setRegs bs).draws = s.draws := rfl

/-! ### push -/

@[simp] theorem State.push_v (w : Word) : (s.push w).v = s.v := rfl
@[simp] theorem State.push_i (w : Word) : (s.push w).i = s.i := rfl
@[simp] theorem State.push_pc (w : Word) : (s.push w).pc = s.pc := rfl
@[simp] theorem State.push_sp (w : Word) : (s.push w).sp = s.sp + 1 := rfl
@[simp] theorem State.push_stack (w : Word) : (s.push w).stack = s.stack.setIfInBounds s.sp.toNat w := rfl
@[simp] theorem State.push_dt (w : Word) : (s.push w).dt = s.dt := rfl
@[simp] theorem State.push_st (w : Word) : (s.push w).st = s.st := rfl
@[simp] theorem State.push_mode (w : Word) : (s.push w).mode = s.mode := rfl
@[simp] theorem State.push_ks (w : Word) : (s.push w).ks = s.ks := rfl
@[simp] theorem State.push_mem (w : Word) : (s.push w).mem = s.mem := rfl
@[simp] theorem State.push_fb (w : Word) : (s.push w).fb = s.fb := rfl
@[simp] theorem State.push_keys (w : Word) : (s.push w).keys = s.keys := rfl
@[simp] theorem State.push_diag (w : Word) : (s.push w).diag = s.diag := rfl
@[simp] theorem State.push_draws (w : Word) : (s.push w).draws = s.draws := rfl

/-! ### pop -/

@[simp] theorem State.pop_v : (s.pop).v = s.v := rfl
@[simp] theorem State.pop_i : (s.pop).i = s.i := rfl
@[simp] theorem State.pop_pc : (s.pop).pc = s.pc := rfl
@[simp] theorem State.pop_sp : (s.pop).sp = s.sp - 1 := rfl
@[simp] theorem State.pop_stack : (s.pop).stack = s.stack := rfl
@[simp] theorem State.pop_dt : (s.pop).dt = s.dt := rfl
@[simp] theorem State.pop_st : (s.pop).st = s.st := rfl
@[simp] theorem State.pop_mode : (s.pop).mode = s.mode := rfl
@[simp] theorem State.pop_ks : (s.pop).ks = s.ks := rfl
@[simp] theorem State.pop_mem : (s.pop).mem = s.mem := rfl
@[simp] theorem State.pop_fb : (s.pop).fb = s.fb := rfl
@[simp] theorem State.pop_keys : (s.pop).keys = s.keys := rfl
@[simp] theorem State.pop_diag : (s.pop).diag = s.diag := rfl
@[simp] theorem State.pop_draws : (s.pop).draws = s.draws := rfl

/-! ### takeDraw -/

@[simp] theorem State.takeDraw_v : (s.takeDraw).v = s.v := rfl
@[simp] theorem State.takeDraw_i : (s.takeDraw).i = s.i := rfl
@[simp] theorem State.takeDraw_pc : (s.takeDraw).pc = s.pc := rfl
@[simp] theorem State.takeDraw_sp : (s.takeDraw).sp = s.sp := rfl
@[simp] theorem State.takeDraw_stack : (s.takeDraw).stack = s.stack := rfl
@[simp] theorem State.takeDraw_dt : (s.takeDraw).dt = s.dt := rfl
@[simp] theorem State.takeDraw_st : (s.takeDraw).st = s.st := rfl
@[simp] theorem State.takeDraw_mode : (s.takeDraw).mode = s.mode := rfl
@[simp] theorem State.takeDraw_ks : (s.takeDraw).ks = s.ks := rfl
@[simp] theorem State.takeDraw_mem : (s.takeDraw).mem = s.mem := rfl
@[simp] theorem State.takeDraw_fb : (s.takeDraw).fb = s.fb := rfl
@[simp] theorem State.takeDraw_keys : (s.takeDraw).keys = s.keys := rfl
@[simp] theorem State.takeDraw_diag : (s.takeDraw).diag = s.diag := rfl
@[simp] theorem State.takeDraw_draws : (s.takeDraw).draws = s.draws + 1 := rfl

/-! ### raise -/

@[simp] theorem State.raise_v (k : DiagKind) (op : Word) : (s.raise k op).v = s.v := rfl
@[simp] theorem State.raise_i (k : DiagKind) (op : Word) : (s.raise k op).i = s.i := rfl
@[simp] theorem State.raise_pc (k : DiagKind) (op : Word) : (s.raise k op).pc = s.pc := rfl
@[simp] theorem State.raise_sp (k : DiagKind) (op : Word) : (s.raise k op).sp = s.sp := rfl
@[simp] theorem State.raise_stack (k : DiagKind) (op : Word) : (s.raise k op).stack = s.stack := rfl
@[simp] theorem State.raise_dt (k : DiagKind) (op : Word) : (s.raise k op).dt = s.dt := rfl
@[simp] theorem State.raise_st (k : DiagKind) (op : Word) : (s.raise k op).st = s.st := rfl
@[simp] theorem State.raise_mode (k : DiagKind) (op : Word) : (s.raise k op).mode = s.mode := rfl
@[simp] theorem State.raise_ks (k : DiagKind) (op : Word) : (s.raise k op).ks = s.ks := rfl
@[simp] theorem State.raise_mem (k : DiagKind) (op : Word) : (s.raise k op).mem = s.mem := rfl
@[simp] theorem State.raise_fb (k : DiagKind) (op : Word) : (s.raise k op).fb = s.fb := rfl
@[simp] theorem State.raise_keys (k : DiagKind) (op : Word) : (s.raise k op).keys = s.keys := rfl
@[simp] theorem State.raise_diag (k : DiagKind) (op : Word) : (s.raise k op).diag = s.diag ++ [⟨k, op, s.fetchAddr⟩] := rfl
@[simp] theorem State.raise_draws (k : DiagKind) (op : Word) : (s.raise k op).draws = s.draws := rfl

/-! ### setFlag -/

@[simp] theorem State.setFlag_v (f : Bool) : (s.setFlag f).v = s.v.set regVF (if f then 1 else 0) := rfl
@[simp] theorem State.setFlag_i (f : Bool) : (s.setFlag f).i = s.i := rfl
@[simp] theorem State.setFlag_pc (f : Bool) : (s.setFlag f).pc = s.pc := rfl
@[simp] theorem State.setFlag_sp (f : Bool) : (s.setFlag f).sp = s.sp := rfl
@[simp] theorem State.setFlag_stack (f : Bool) : (s.setFlag f).stack = s.stack := rfl
@[simp] theorem State.setFlag_dt (f : Bool) : (s.setFlag f).dt = s.dt := rfl
@[simp] theorem State.setFlag_st (f : Bool) : (s.setFlag f).st = s.st := rfl
@[simp] theorem State.setFlag_mode (f : Bool) : (s.setFlag f).mode = s.mode := rfl
@[simp] theorem State.setFlag_ks (f : Bool) : (s.setFlag f).ks = s.ks := rfl
@[simp] theorem State.setFlag_mem (f : Bool) : (s.setFlag f).mem = s.mem := rfl
@[simp] theorem State.setFlag_fb (f : Bool) : (s.setFlag f).fb = s.fb := rfl
@[simp] theorem State.setFlag_keys (f : Bool) : (s.setFlag f).keys = s.keys := rfl
@[simp] theorem State.setFlag_diag (f : Bool) : (s.setFlag f).diag = s.diag := rfl
@[simp] theorem State.setFlag_draws (f : Bool) : (s.setFlag f).draws = s.draws := rfl

/-! ### setRegThenFlag -/

@[simp] theorem State.setRegThenFlag_v (x : Reg) (b : Byte) (f : Bool) : (s.setRegThenFlag x b f).v = (s.v.set x b).set regVF (if f then 1 else 0) := rfl
@[simp] theorem State.setRegThenFlag_i (x : Reg) (b : Byte) (f : Bool) : (s.setRegThenFlag x b f).i = s.i := rfl
@[simp] theorem State.setRegThenFlag_pc (x : Reg) (b : Byte) (f : Bool) : (s.setRegThenFlag x b f).pc = s.pc := rfl
@[simp] theorem State.setRegThenFlag_sp (x : Reg) (b : Byte) (f : Bool) : (s.setRegThenFlag x b f).sp = s.sp := rfl
@[simp] theorem State.setRegThenFlag_stack (x : Reg) (b : Byte) (f : Bool) : (s.setRegThenFlag x b f).stack = s.stack := rfl
@[simp] theorem State.setRegThenFlag_dt (x : Reg) (b : Byte) (f : Bool) : (s.setRegThenFlag x b f).dt = s.dt := rfl
@[simp] theorem State.setRegThenFlag_st (x : Reg) (b : Byte) (f : Bool) : (s.setRegThenFlag x b f).st = s.st := rfl
@[simp] theorem State.setRegThenFlag_mode (x : Reg) (b : Byte) (f : Bool) : (s.setRegThenFlag x b f).mode = s.mode := rfl
@[simp] theorem State.setRegThenFlag_ks (x : Reg) (b : Byte) (f : Bool) : (s.setRegThenFlag x b f).ks = s.ks := rfl
@[simp] theorem State.setRegThenFlag_mem (x : Reg) (b : Byte) (f : Bool) : (s.setRegThenFlag x b f).mem = s.mem := rfl
@[simp] theorem State.setRegThenFlag_fb (x : Reg) (b : Byte) (f : Bool) : (s.setRegThenFlag x b f).fb = s.fb := rfl
@[simp] theorem State.setRegThenFlag_keys (x : Reg) (b : Byte) (f : Bool) : (s.setRegThenFlag x b f).keys = s.keys := rfl
@[simp] theorem State.setRegThenFlag_diag (x : Reg) (b : Byte) (f : Bool) : (s.setRegThenFlag x b f).diag = s.diag := rfl
@[simp] theorem State.setRegThenFlag_draws (x : Reg) (b : Byte) (f : Bool) : (s.setRegThenFlag x b f).draws = s.draws := rfl

/-! ### A skip writes the pc alone -/

@[simp] theorem State.skipIf_v (c : Bool) : (s.skipIf c).v = s.v := by cases c <;> rfl
@[simp] theorem State.skipIf_i (c : Bool) : (s.skipIf c).i = s.i := by cases c <;> rfl
@[simp] theorem State.skipIf_sp (c : Bool) : (s.skipIf c).sp = s.sp := by cases c <;> rfl
@[simp] theorem State.skipIf_stack (c : Bool) : (s.skipIf c).stack = s.stack := by cases c <;> rfl
@[simp] theorem State.skipIf_dt (c : Bool) : (s.skipIf c).dt = s.dt := by cases c <;> rfl
@[simp] theorem State.skipIf_st (c : Bool) : (s.skipIf c).st = s.st := by cases c <;> rfl
@[simp] theorem State.skipIf_mode (c : Bool) : (s.skipIf c).mode = s.mode := by cases c <;> rfl
@[simp] theorem State.skipIf_ks (c : Bool) : (s.skipIf c).ks = s.ks := by cases c <;> rfl
@[simp] theorem State.skipIf_mem (c : Bool) : (s.skipIf c).mem = s.mem := by cases c <;> rfl
@[simp] theorem State.skipIf_fb (c : Bool) : (s.skipIf c).fb = s.fb := by cases c <;> rfl
@[simp] theorem State.skipIf_keys (c : Bool) : (s.skipIf c).keys = s.keys := by cases c <;> rfl
@[simp] theorem State.skipIf_diag (c : Bool) : (s.skipIf c).diag = s.diag := by cases c <;> rfl
@[simp] theorem State.skipIf_draws (c : Bool) : (s.skipIf c).draws = s.draws := by cases c <;> rfl

theorem State.skipIf_pc (c : Bool) :
    (s.skipIf c).pc = if c then BitVec.ofNat 16 ((s.pc.toNat + 2) % Config.memSize) else s.pc := by cases c <;> rfl

/-! ### The fetch writes the pc alone -/

@[simp] theorem State.afterFetch_v : s.afterFetch.v = s.v := rfl
@[simp] theorem State.afterFetch_i : s.afterFetch.i = s.i := rfl
@[simp] theorem State.afterFetch_pc : s.afterFetch.pc = BitVec.ofNat 16 ((s.pc.toNat + 2) % Config.memSize) := rfl
@[simp] theorem State.afterFetch_sp : s.afterFetch.sp = s.sp := rfl
@[simp] theorem State.afterFetch_stack : s.afterFetch.stack = s.stack := rfl
@[simp] theorem State.afterFetch_dt : s.afterFetch.dt = s.dt := rfl
@[simp] theorem State.afterFetch_st : s.afterFetch.st = s.st := rfl
@[simp] theorem State.afterFetch_mode : s.afterFetch.mode = s.mode := rfl
@[simp] theorem State.afterFetch_ks : s.afterFetch.ks = s.ks := rfl
@[simp] theorem State.afterFetch_mem : s.afterFetch.mem = s.mem := rfl
@[simp] theorem State.afterFetch_fb : s.afterFetch.fb = s.fb := rfl
@[simp] theorem State.afterFetch_keys : s.afterFetch.keys = s.keys := rfl
@[simp] theorem State.afterFetch_diag : s.afterFetch.diag = s.diag := rfl
@[simp] theorem State.afterFetch_draws : s.afterFetch.draws = s.draws := rfl

/-! ### The host events -/

@[simp] theorem tick_v : (tick s).v = s.v := rfl
@[simp] theorem tick_i : (tick s).i = s.i := rfl
@[simp] theorem tick_pc : (tick s).pc = s.pc := rfl
@[simp] theorem tick_sp : (tick s).sp = s.sp := rfl
@[simp] theorem tick_stack : (tick s).stack = s.stack := rfl
@[simp] theorem tick_dt : (tick s).dt = countDown s.dt := rfl
@[simp] theorem tick_st : (tick s).st = countDown s.st := rfl
@[simp] theorem tick_mode : (tick s).mode = s.mode := rfl
@[simp] theorem tick_ks : (tick s).ks = s.ks := rfl
@[simp] theorem tick_mem : (tick s).mem = s.mem := rfl
@[simp] theorem tick_fb : (tick s).fb = s.fb := rfl
@[simp] theorem tick_keys : (tick s).keys = s.keys := rfl
@[simp] theorem tick_diag : (tick s).diag = s.diag := rfl
@[simp] theorem tick_draws : (tick s).draws = s.draws := rfl
@[simp] theorem setKeys_v (k : Word) : (setKeys k s).v = s.v := rfl
@[simp] theorem setKeys_i (k : Word) : (setKeys k s).i = s.i := rfl
@[simp] theorem setKeys_pc (k : Word) : (setKeys k s).pc = s.pc := rfl
@[simp] theorem setKeys_sp (k : Word) : (setKeys k s).sp = s.sp := rfl
@[simp] theorem setKeys_stack (k : Word) : (setKeys k s).stack = s.stack := rfl
@[simp] theorem setKeys_dt (k : Word) : (setKeys k s).dt = s.dt := rfl
@[simp] theorem setKeys_st (k : Word) : (setKeys k s).st = s.st := rfl
@[simp] theorem setKeys_mode (k : Word) : (setKeys k s).mode = s.mode := rfl
@[simp] theorem setKeys_ks (k : Word) : (setKeys k s).ks = s.ks := rfl
@[simp] theorem setKeys_mem (k : Word) : (setKeys k s).mem = s.mem := rfl
@[simp] theorem setKeys_fb (k : Word) : (setKeys k s).fb = s.fb := rfl
@[simp] theorem setKeys_keys (k : Word) : (setKeys k s).keys = k := rfl
@[simp] theorem setKeys_diag (k : Word) : (setKeys k s).diag = s.diag := rfl
@[simp] theorem setKeys_draws (k : Word) : (setKeys k s).draws = s.draws := rfl
@[simp] theorem resetEvent_v : (resetEvent s).v = State.reset.v := rfl
@[simp] theorem resetEvent_i : (resetEvent s).i = State.reset.i := rfl
@[simp] theorem resetEvent_pc : (resetEvent s).pc = State.reset.pc := rfl
@[simp] theorem resetEvent_sp : (resetEvent s).sp = State.reset.sp := rfl
@[simp] theorem resetEvent_stack : (resetEvent s).stack = State.reset.stack := rfl
@[simp] theorem resetEvent_dt : (resetEvent s).dt = State.reset.dt := rfl
@[simp] theorem resetEvent_st : (resetEvent s).st = State.reset.st := rfl
@[simp] theorem resetEvent_mode : (resetEvent s).mode = State.reset.mode := rfl
@[simp] theorem resetEvent_ks : (resetEvent s).ks = State.reset.ks := rfl
@[simp] theorem resetEvent_mem : (resetEvent s).mem = State.reset.mem := rfl
@[simp] theorem resetEvent_fb : (resetEvent s).fb = State.reset.fb := rfl
@[simp] theorem resetEvent_keys : (resetEvent s).keys = State.reset.keys := rfl
@[simp] theorem resetEvent_diag : (resetEvent s).diag = s.diag := rfl
@[simp] theorem resetEvent_draws : (resetEvent s).draws = s.draws := rfl

end Sys2Proof.Machine
end

