-- ==== Sys2Proof/Laws/Memory.lean ====
section
/-!
SUPPORT. Memory: what a read gives after a write, and that every operation keeps the canonical form.
-/
namespace Sys2Proof.Machine

@[simp] theorem addrOf_lt (e : Nat) : addrOf e < 4096 := Nat.mod_lt e (by decide)

theorem addrOf_of_lt {e : Nat} (h : e < 4096) : addrOf e = e := Nat.mod_eq_of_lt h

theorem Memory.wfFrom_mono {m : Memory} {lo lo' : Nat} (h : lo ≤ lo') (hm : m.wfFrom lo') : m.wfFrom lo := by
  cases m with
  | nil => rfl
  | cons c m =>
    simp only [Memory.wfFrom, Bool.and_eq_true, decide_eq_true_eq] at hm ⊢
    exact ⟨⟨⟨by omega, hm.1.1.2⟩, hm.1.2⟩, hm.2⟩

/-- Below its first address a canonical memory lists nothing. -/
theorem Memory.read_of_wfFrom {m : Memory} {lo a : Nat} (hm : m.wfFrom lo) (h : a < lo) :
    m.read a = Memory.unlisted a := by
  induction m generalizing lo with
  | nil => rfl
  | cons c m ih =>
    simp only [Memory.wfFrom, Bool.and_eq_true, decide_eq_true_eq] at hm
    rw [Memory.read, if_neg (by omega), ih hm.2 (by omega)]

theorem Memory.read_cell_append (a a' : Nat) (b : Byte) (m : Memory) (h : a' ≠ a) :
    Memory.read (Memory.cell a b ++ m) a' = m.read a' := by
  unfold Memory.cell
  split <;> simp [Memory.read, h]

/-- A write leaves every other address alone, in every memory. -/
theorem Memory.read_write_ne (m : Memory) {a a' : Nat} (b : Byte) (h : a' ≠ a) :
    (m.write a b).read a' = m.read a' := by
  induction m with
  | nil => simpa [Memory.write] using Memory.read_cell_append a a' b [] h
  | cons c m ih =>
    obtain ⟨x, y⟩ := c
    simp only [Memory.write]
    split
    · exact Memory.read_cell_append a a' b _ h
    · split
      · rename_i hx
        subst hx
        rw [Memory.read_cell_append _ _ _ _ h, Memory.read, if_neg h]
      · simp only [Memory.read, ih]

/-- A read gives the byte last written. -/
theorem Memory.read_write_same {m : Memory} {lo : Nat} (hm : m.wfFrom lo) (a : Nat) (b : Byte) :
    (m.write a b).read a = b := by
  have cell : ∀ {m : Memory} {lo : Nat}, m.wfFrom lo → a < lo → Memory.read (Memory.cell a b ++ m) a = b := by
    intro m lo hm h
    unfold Memory.cell
    split
    · rename_i hb
      rw [List.nil_append, Memory.read_of_wfFrom hm h, hb]
    · simp [Memory.read]
  induction m generalizing lo with
  | nil => simpa [Memory.write] using cell (m := []) (lo := a + 1) rfl (by omega)
  | cons c m ih =>
    obtain ⟨x, y⟩ := c
    have hc := hm
    simp only [Memory.wfFrom, Bool.and_eq_true, decide_eq_true_eq] at hm
    simp only [Memory.write]
    split
    · rename_i h
      apply cell (lo := x) _ h
      simp only [Memory.wfFrom, Bool.and_eq_true, decide_eq_true_eq]
      exact ⟨⟨⟨le_refl _, hm.1.1.2⟩, hm.1.2⟩, hm.2⟩
    · split
      · rename_i h
        subst h
        exact cell hm.2 (by omega)
      · rename_i h
        rw [Memory.read, if_neg h, ih hm.2]

theorem Memory.wfFrom_cell_append {m : Memory} {a : Nat} (b : Byte) (ha : a < 4096) (hm : m.wfFrom (a + 1)) :
    Memory.wfFrom a (Memory.cell a b ++ m) := by
  unfold Memory.cell
  split
  · exact Memory.wfFrom_mono (by omega) hm
  · rename_i h
    simp [Memory.wfFrom, ha, hm, h]

theorem Memory.wfFrom_write {m : Memory} {lo a : Nat} (hm : m.wfFrom lo) (h : lo ≤ a) (ha : a < 4096) (b : Byte) :
    (m.write a b).wfFrom lo := by
  induction m generalizing lo with
  | nil => simpa [Memory.write] using Memory.wfFrom_mono h (Memory.wfFrom_cell_append (m := []) b ha rfl)
  | cons c m ih =>
    obtain ⟨x, y⟩ := c
    have hc := hm
    simp only [Memory.wfFrom, Bool.and_eq_true, decide_eq_true_eq] at hm
    simp only [Memory.write]
    split
    · rename_i hx
      refine Memory.wfFrom_mono h (Memory.wfFrom_cell_append b ha ?_)
      simp only [Memory.wfFrom, Bool.and_eq_true, decide_eq_true_eq]
      exact ⟨⟨⟨by omega, hm.1.1.2⟩, hm.1.2⟩, hm.2⟩
    · split
      · rename_i hx
        subst hx
        exact Memory.wfFrom_mono h (Memory.wfFrom_cell_append b ha hm.2)
      · simp only [Memory.wfFrom, Bool.and_eq_true, decide_eq_true_eq]
        exact ⟨hm.1, ih hm.2 (by omega)⟩

/-- A write keeps the canonical form. -/
theorem Memory.wf_write {m : Memory} (hm : m.wf = true) {a : Nat} (ha : a < 4096) (b : Byte) :
    (m.write a b).wf = true :=
  Memory.wfFrom_write hm (Nat.zero_le a) ha b

/-- A run of bytes stored keeps the canonical form. -/
theorem Memory.wf_writeBytes (bs : List Byte) {m : Memory} (hm : m.wf = true) (e : Nat) :
    (m.writeBytes e bs).wf = true := by
  induction bs generalizing m e with
  | nil => exact hm
  | cons b bs ih => exact ih (Memory.wf_write hm (addrOf_lt e) b) (e + 1)

/-- A run of bytes stored leaves every address outside it alone, in every memory. -/
theorem Memory.read_writeBytes_ne (bs : List Byte) (m : Memory) (e : Nat) {a : Nat}
    (h : ∀ k < bs.length, a ≠ addrOf (e + k)) : (m.writeBytes e bs).read a = m.read a := by
  induction bs generalizing m e with
  | nil => rfl
  | cons b bs ih =>
    rw [Memory.writeBytes, ih, Memory.read_write_ne _ _ (by simpa using h 0)]
    intro k hk
    have := h (k + 1) (by simpa using hk)
    rwa [show e + 1 + k = e + (k + 1) by omega]

/-- A run of at most 4096 bytes stored reads back, byte for byte. -/
theorem Memory.read_writeBytes (bs : List Byte) {m : Memory} (hm : m.wf = true) (e : Nat) (hl : bs.length ≤ 4096)
    {k : Nat} (hk : k < bs.length) : (m.writeBytes e bs).read (addrOf (e + k)) = bs[k] := by
  induction bs generalizing m e k with
  | nil => simp at hk
  | cons b bs ih =>
    have hl' : bs.length + 1 ≤ 4096 := hl
    have hw := Memory.wf_write hm (addrOf_lt e) b
    rw [Memory.writeBytes]
    cases k with
    | zero =>
      rw [Memory.read_writeBytes_ne]
      · simpa using Memory.read_write_same hm (addrOf e) b
      · intro j hj
        simp only [addrOf, Config.memSize]
        omega
    | succ k =>
      have := ih hw (e + 1) (by omega) (k := k) (by simpa using hk)
      rw [show e + (k + 1) = e + 1 + k by omega, this]
      simp

theorem Memory.readBytes_length (m : Memory) (e len : Nat) : (m.readBytes e len).length = len := by
  induction len generalizing e with
  | zero => rfl
  | succ len ih => simp [Memory.readBytes, ih]

/-- Byte k of a run read. -/
theorem Memory.readBytes_getD (m : Memory) (e : Nat) {len k : Nat} (h : k < len) (d : Byte) :
    (m.readBytes e len).getD k d = m.read (addrOf (e + k)) := by
  induction len generalizing e k with
  | zero => omega
  | succ len ih =>
    cases k with
    | zero => simp [Memory.readBytes]
    | succ k =>
      have := ih (e + 1) (k := k) (by omega)
      rw [show e + (k + 1) = e + 1 + k by omega, ← this]
      simp [Memory.readBytes]

/-- The reset memory is canonical. -/
theorem Memory.wf_reset : State.reset.mem.wf = true := rfl

/-! ## The policy for addresses past 0xFFF -/

@[simp] theorem guardRange_memOob (e len : Nat) (go : Result) : guardRange Config.memOob e len go = go := rfl

end Sys2Proof.Machine
end

