-- ==== Sys2Proof/Laws/Registers.lean ====
section
/-!
SUPPORT. Reading a register, a stack slot or a pixel after a write of one.
-/
namespace Sys2Proof.Machine

/-! ## Registers -/

theorem State.reg_def (s : State) (r : Reg) : s.reg r = s.v[r.val] := rfl

theorem State.reg_congr {s t : State} (h : t.v = s.v) (r : Reg) : t.reg r = s.reg r := by
  simp [State.reg, h]

theorem State.reg_setReg (s : State) (x r : Reg) (b : Byte) :
    (s.setReg x b).reg r = if r = x then b else s.reg r := by
  simp only [State.reg_def, State.setReg_v, Vector.getElem_set, Fin.ext_iff, eq_comm (a := x.val)]

@[simp] theorem State.reg_setReg_same (s : State) (x : Reg) (b : Byte) : (s.setReg x b).reg x = b := by
  simp [State.reg_setReg]

theorem State.reg_setReg_ne (s : State) {x r : Reg} (b : Byte) (h : r ≠ x) : (s.setReg x b).reg r = s.reg r := by
  simp [State.reg_setReg, h]

theorem State.reg_setFlag (s : State) (r : Reg) (f : Bool) :
    (s.setFlag f).reg r = if r = regVF then (if f then 1 else 0) else s.reg r :=
  s.reg_setReg regVF r _

/-- All that `setRegThenFlag` does to the registers: VF holds the flag, even when x is VF. -/
theorem State.reg_setRegThenFlag (s : State) (x r : Reg) (b : Byte) (f : Bool) :
    (s.setRegThenFlag x b f).reg r =
      if r = regVF then (if f then 1 else 0) else if r = x then b else s.reg r := by
  simp only [State.setRegThenFlag, State.reg_setFlag, State.reg_setReg]

theorem getElem_setRegsFrom (bs : List Byte) (v : Vector Byte 16) (k r : Nat) (h : r < 16) :
    (setRegsFrom v k bs)[r] = if k ≤ r then bs.getD (r - k) v[r] else v[r] := by
  induction bs generalizing v k with
  | nil => simp [setRegsFrom]
  | cons b bs ih =>
    rw [setRegsFrom, ih, Vector.getElem_setIfInBounds h]
    rcases Nat.lt_trichotomy k r with hk | rfl | hk
    · obtain ⟨d, rfl⟩ : ∃ d, r = k + 1 + d := ⟨r - (k + 1), by omega⟩
      have h1 : k + 1 + d - k = d + 1 := by omega
      have h2 : k ≤ k + 1 + d := by omega
      have h3 : k ≠ k + 1 + d := by omega
      simp [h1, h2, h3]
    · simp
    · have h1 : ¬ k + 1 ≤ r := by omega
      have h2 : ¬ k ≤ r := by omega
      have h3 : k ≠ r := by omega
      simp [h1, h2, h3]

/-- All that `setRegs` does: register r takes byte r of the list, where there is one. -/
theorem State.reg_setRegs (s : State) (bs : List Byte) (r : Reg) :
    (s.setRegs bs).reg r = bs.getD r.val (s.reg r) := by
  simp [State.reg_def, getElem_setRegsFrom]

theorem State.regsUpTo_length (s : State) (x : Reg) : (s.regsUpTo x).length = x.val + 1 := by
  simp [State.regsUpTo]

theorem State.regsUpTo_getD (s : State) (x r : Reg) (h : r ≤ x) (d : Byte) :
    (s.regsUpTo x).getD r.val d = s.reg r := by
  have hl : r.val < x.val + 1 := Nat.lt_succ_of_le h
  simp [State.regsUpTo, State.reg_def, List.getD_eq_getElem?_getD, hl]

/-! ## Stack slots -/

theorem State.slot_congr {s t : State} (h : t.stack = s.stack) (k : Nat) : t.slot k = s.slot k := by
  simp [State.slot, h]

theorem State.slot_push_ne (s : State) (w : Word) {k : Nat} (h : k ≠ s.sp.toNat) : (s.push w).slot k = s.slot k := by
  simp [State.slot, Ne.symm h]

theorem State.slot_push_same (s : State) (w : Word) (h : s.sp.toNat < 16) : (s.push w).slot s.sp.toNat = w := by
  simp [State.slot, h]

/-! ## Pixels -/

theorem Framebuffer.pixel_setPixel (fb : Framebuffer) (r r' : Fin 32) (c c' : Fin 64) (on : Bool) :
    (fb.setPixel r c on).pixel r' c' = if r' = r ∧ c' = c then on else fb.pixel r' c' := by
  simp only [Framebuffer.pixel, Framebuffer.setPixel, Vector.get_eq_getElem, Vector.getElem_set, Fin.ext_iff]
  by_cases hr : r.val = r'.val
  · have : r = r' := Fin.ext hr
    subst this
    simp [Vector.getElem_set, eq_comm]
  · simp [hr, Ne.symm hr]

@[simp] theorem Framebuffer.pixel_blank (r : Fin 32) (c : Fin 64) : Framebuffer.blank.pixel r c = false := by
  simp [Framebuffer.pixel, Framebuffer.blank, Vector.get_eq_getElem]

/-- Framebuffers with the same pixels are the same. -/
theorem Framebuffer.ext_pixel {f g : Framebuffer} (h : ∀ r c, f.pixel r c = g.pixel r c) : f = g := by
  ext r hr c hc
  exact h ⟨r, hr⟩ ⟨c, hc⟩

end Sys2Proof.Machine
end

