-- ==== Sys2Proof/Laws/Operands.lean ====
section
/-!
SUPPORT. What each operand form and flag computation gives, in the spec's terms.
-/
namespace Sys2Proof.Machine

/-! ## Places -/

theorem place_clip_eq_some {R C : Nat} {r : Fin 32} {c : Fin 64} :
    place .clip R C = some (r, c) ↔ R = r.val ∧ C = c.val := by
  simp only [place]
  constructor
  · intro h
    split at h
    · simpa [Fin.ext_iff] using h
    · simp at h
  · rintro ⟨rfl, rfl⟩
    simp [r.isLt, c.isLt]

theorem place_wrap_eq_some {R C : Nat} {r : Fin 32} {c : Fin 64} :
    place .wrap R C = some (r, c) ↔ R % 32 = r.val ∧ C % 64 = c.val := by
  simp [place, Fin.ext_iff]

/-- A draw at most 8 columns wide and 15 rows high puts two of its bits on one pixel only if they are one bit, under either
policy (spec/44_display.md R211). -/
theorem place_injective {edge : Config.SpriteEdge} {R C k j k' j' : Nat} {p : Fin 32 × Fin 64} (hk : k < 16)
    (hk' : k' < 16) (hj : j < 8) (hj' : j' < 8) (h : place edge (R + k) (C + j) = some p)
    (h' : place edge (R + k') (C + j') = some p) : k = k' ∧ j = j' := by
  obtain ⟨r, c⟩ := p
  cases edge with
  | clip =>
    rw [place_clip_eq_some] at h h'
    omega
  | wrap =>
    rw [place_wrap_eq_some] at h h'
    omega

/-! ## Keys -/

/-- `lowestKey` finds the lowest-numbered key of a set. -/
theorem lowestKey_eq_some {w : Word} {k : Nat} :
    lowestKey w = some k ↔ k < 16 ∧ w.getLsbD k = true ∧ ∀ j < k, w.getLsbD j = false := by
  rw [lowestKey, List.find?_range_eq_some]
  simp
  tauto

/-- `lowestKey` finds nothing exactly in the empty set. -/
theorem lowestKey_eq_none {w : Word} : lowestKey w = none ↔ ∀ k < 16, w.getLsbD k = false := by
  simp [lowestKey]

theorem lowestKey_lt {w : Word} {k : Nat} (h : lowestKey w = some k) : k < 16 := (lowestKey_eq_some.1 h).1

@[simp] theorem State.newKeys_getLsbD (s : State) {k : Nat} (h : k < 16) :
    s.newKeys.getLsbD k = (s.keys.getLsbD k && !s.ks.getLsbD k) := by
  simp [State.newKeys, h]

/-! ## Bytes -/

theorem addMod_toNat (p q : Byte) : (addMod p q).toNat = (p.toNat + q.toNat) % 256 := by simp [addMod]

theorem subMod_toNat (p q : Byte) : (subMod p q).toNat = (p.toNat + 256 - q.toNat) % 256 := by simp [subMod]

@[simp] theorem bcdDigits_length (b : Byte) : (bcdDigits b).length = 3 := rfl

theorem glyphAddr_toNat (b : Byte) : (glyphAddr b).toNat = 5 * (b.toNat % 16) := by
  simp only [glyphAddr, lowNibble, BitVec.toNat_ofNat, Config.fontBase, Config.fontGlyphBytes]
  omega

theorem wordOfBytes_toNat (hi lo : Byte) : (wordOfBytes hi lo).toNat = 256 * hi.toNat + lo.toNat := by
  have h := lo.isLt
  simp only [wordOfBytes, BitVec.toNat_append, Nat.shiftLeft_eq]
  rw [Nat.mul_comm hi.toNat, ← Nat.two_pow_add_eq_or_of_lt (by simpa using h)]

/-! ## The pc -/

theorem State.setPc_pc_lt (s : State) (e : Nat) : (s.setPc e).pc.toNat < 4096 := by
  simp only [State.setPc_pc, BitVec.toNat_ofNat, Config.memSize]
  omega

theorem State.setPc_pc_toNat (s : State) (e : Nat) : (s.setPc e).pc.toNat = e % 4096 := by
  simp only [State.setPc_pc, BitVec.toNat_ofNat, Config.memSize]
  omega

/-- The fetch address of the word just fetched is the pc before the fetch (spec/60_exceptions.md R252). -/
theorem State.fetchAddr_afterFetch (s : State) (h : s.pc.toNat < 4096) : s.afterFetch.fetchAddr = s.pc := by
  apply BitVec.eq_of_toNat_eq
  simp only [State.fetchAddr, State.afterFetch, State.setPc_pc_toNat, BitVec.toNat_ofNat, Config.memSize]
  omega

end Sys2Proof.Machine
end

