-- ==== Sys2Proof/Laws/Display.lean ====
section
/-!
SUPPORT. What the parts of the drawing loop do to one pixel and to `hit` (spec/44_display.md R211). A canvas `cv` comes from
`base` by flipping the pixels of a set `P` when `Flipped base P cv` holds.
-/
namespace Sys2Proof.Machine

/-- `cv` is the canvas `base` with the pixels of `P` flipped, each once, and `hit` raised if one of them was on. -/
structure Flipped (base : Canvas) (P : Fin 32 → Fin 64 → Prop) (cv : Canvas) : Prop where
  inside : ∀ r c, P r c → cv.fb.pixel r c = !base.fb.pixel r c
  outside : ∀ r c, ¬ P r c → cv.fb.pixel r c = base.fb.pixel r c
  hit : cv.hit = true ↔ base.hit = true ∨ ∃ r c, P r c ∧ base.fb.pixel r c = true

theorem Flipped.refl (cv : Canvas) : Flipped cv (fun _ _ => False) cv :=
  ⟨fun _ _ h => h.elim, fun _ _ _ => rfl, by simp⟩

theorem Flipped.congr {base cv : Canvas} {P Q : Fin 32 → Fin 64 → Prop} (h : Flipped base P cv)
    (hPQ : ∀ r c, P r c ↔ Q r c) : Flipped base Q cv := by
  have : P = Q := by
    funext r c
    exact propext (hPQ r c)
  exact this ▸ h

/-- One more 1 bit of the sprite, on a pixel not flipped before. -/
theorem Flipped.plot {base cv : Canvas} {P : Fin 32 → Fin 64 → Prop} (h : Flipped base P cv)
    (edge : Config.SpriteEdge) (R C : Nat) (hnew : ∀ r c, place edge R C = some (r, c) → ¬ P r c) :
    Flipped base (fun r c => P r c ∨ place edge R C = some (r, c)) (plot edge R C cv) := by
  unfold Machine.plot
  cases hp : place edge R C with
  | none => simpa using h
  | some p =>
    obtain ⟨pr, pc⟩ := p
    have hno := hnew pr pc hp
    have hpix := h.outside pr pc hno
    refine ⟨fun r c hrc => ?_, fun r c hrc => ?_, ?_⟩
    · rw [Framebuffer.pixel_setPixel]
      split
      · rename_i e
        rw [e.1, e.2, hpix]
      · rename_i e
        exact h.inside r c (hrc.resolve_right fun hs => e (by simpa [eq_comm] using hs))
    · have hs : ¬ (r = pr ∧ c = pc) := fun e => hrc (Or.inr (by rw [e.1, e.2]))
      rw [Framebuffer.pixel_setPixel, if_neg hs]
      exact h.outside r c fun hP => hrc (Or.inl hP)
    · simp only [Bool.or_eq_true, h.hit, hpix]
      constructor
      · rintro ((hb | ⟨r, c, hP, hr⟩) | hb)
        · exact Or.inl hb
        · exact Or.inr ⟨r, c, Or.inl hP, hr⟩
        · exact Or.inr ⟨pr, pc, Or.inr rfl, hb⟩
      · rintro (hb | ⟨r, c, hP | hs, hr⟩)
        · exact Or.inl (Or.inl hb)
        · exact Or.inl (Or.inr ⟨r, c, hP, hr⟩)
        · simp only [Option.some.injEq, Prod.mk.injEq] at hs
          rw [← hs.1, ← hs.2] at hr
          exact Or.inr hr

/-- Some 1 bit in the first `j` columns of the row byte `b` is placed on pixel (r, c). -/
def RowCovers (edge : Config.SpriteEdge) (R C : Nat) (b : Byte) (j : Nat) (r : Fin 32) (c : Fin 64) : Prop :=
  ∃ i < j, spriteBit b i = true ∧ place edge R (C + i) = some (r, c)

/-- All that a row of the sprite does, on pixels not flipped before. -/
theorem Flipped.drawColumns {base cv : Canvas} {P : Fin 32 → Fin 64 → Prop} (h : Flipped base P cv)
    (edge : Config.SpriteEdge) (R C : Nat) (b : Byte) (j : Nat) (hj : j ≤ 8)
    (hnew : ∀ r c, RowCovers edge R C b 8 r c → ¬ P r c) :
    Flipped base (fun r c => P r c ∨ RowCovers edge R C b j r c) (drawColumns edge R C b j cv) := by
  induction j with
  | zero => exact h.congr fun r c => by simp [RowCovers]
  | succ j ih =>
    have ih := ih (by omega)
    rw [Machine.drawColumns]
    split
    · rename_i hb
      refine (ih.plot edge R (C + j) ?_).congr fun r c => ?_
      · rintro r c hp (hP | ⟨i, hi, _, hpi⟩)
        · exact hnew r c ⟨j, by omega, hb, hp⟩ hP
        · have := (place_injective (R := R) (k := 0) (k' := 0) (by omega) (by omega) (by omega) (by omega) hp hpi).2
          omega
      · simp only [RowCovers, Nat.lt_succ_iff_lt_or_eq, or_and_right, exists_or, exists_eq_left, hb, true_and, or_assoc]
    · rename_i hb
      refine ih.congr fun r c => ?_
      simp only [RowCovers, Nat.lt_succ_iff_lt_or_eq, or_and_right, exists_or, exists_eq_left, hb, false_and, or_false,
        Bool.false_eq_true]

/-- Some 1 bit in the first `k` rows of the sprite is placed on pixel (r, c). -/
def SpriteCovers (edge : Config.SpriteEdge) (m : Memory) (e R C k : Nat) (r : Fin 32) (c : Fin 64) : Prop :=
  ∃ i < k, RowCovers edge (R + i) C (m.read (addrOf (e + i))) 8 r c

/-- All that the drawing loop does: it flips exactly the covered pixels, each once. -/
theorem drawRows_flipped (edge : Config.SpriteEdge) (m : Memory) (e R C k : Nat) (hk : k ≤ 16) (cv : Canvas) :
    Flipped cv (SpriteCovers edge m e R C k) (drawRows edge m e R C k cv) := by
  induction k with
  | zero => exact (Flipped.refl cv).congr fun r c => by simp [SpriteCovers]
  | succ k ih =>
    refine ((ih (by omega)).drawColumns edge (R + k) C _ 8 (le_refl 8) ?_).congr fun r c => ?_
    · rintro r c ⟨j, hj, _, hp⟩ ⟨i, hi, j', hj', _, hp'⟩
      have := (place_injective (by omega) (by omega) hj hj' hp hp').1
      omega
    · simp only [SpriteCovers, Nat.lt_succ_iff_lt_or_eq, or_and_right, exists_or, exists_eq_left]

end Sys2Proof.Machine
end

