-- ==== Sys2Proof/Laws/Frames.lean ====
section
/-!
SUPPORT. The frame of each shared operation: what it leaves unchanged.
-/
namespace Sys2Proof.Machine

theorem Frame.refl (f : Footprint) (s : State) : Frame f s s := by
  constructor <;> intros <;> rfl

/-- The pc is in no footprint: a write of it keeps every frame. -/
theorem Frame.setPc {f : Footprint} {s t : State} (h : Frame f s t) (e : Nat) : Frame f s (t.setPc e) :=
  { h with }

theorem Frame.skipIf {f : Footprint} {s t : State} (h : Frame f s t) (c : Bool) : Frame f s (t.skipIf c) := by
  cases c
  · exact h
  · exact h.setPc _

theorem Frame.of_setReg (s : State) (x : Reg) (b : Byte) : Frame { regs := [x] } s (s.setReg x b) :=
  { Frame.refl _ s with regs := fun r hr => s.reg_setReg_ne b (by simpa using hr) }

theorem Frame.of_setRegThenFlag (s : State) (x : Reg) (b : Byte) (g : Bool) :
    Frame { regs := [x, regVF] } s (s.setRegThenFlag x b g) :=
  { Frame.refl _ s with
    regs := fun r hr => by
      simp only [List.mem_cons, List.not_mem_nil, or_false, not_or] at hr
      rw [State.reg_setRegThenFlag, if_neg hr.2, if_neg hr.1] }

theorem mem_regsTo {x r : Reg} : r ∈ regsTo x ↔ r ≤ x := by simp [regsTo]

theorem Frame.of_setRegs (s : State) (x : Reg) (bs : List Byte) (hl : bs.length ≤ x.val + 1) :
    Frame { regs := regsTo x } s (s.setRegs bs) :=
  { Frame.refl _ s with
    regs := fun r hr => by
      rw [mem_regsTo, not_le] at hr
      have : bs.length ≤ r.val := hl.trans hr
      simp [State.reg_setRegs, List.getD_eq_getElem?_getD, this] }

theorem Frame.of_setIndex (s : State) (w : Word) : Frame { index := true } s (s.setIndex w) :=
  { Frame.refl _ s with index := fun h => nomatch h }

theorem Frame.of_setDelay (s : State) (b : Byte) : Frame { delay := true } s (s.setDelay b) :=
  { Frame.refl _ s with delay := fun h => nomatch h }

theorem Frame.of_setSound (s : State) (b : Byte) : Frame { sound := true } s (s.setSound b) :=
  { Frame.refl _ s with sound := fun h => nomatch h }

theorem Frame.of_setFb (s : State) (fb : Framebuffer) : Frame { display := true } s (s.setFb fb) :=
  { Frame.refl _ s with display := fun h => nomatch h }

theorem Frame.of_pop (s : State) : Frame { sp := true } s s.pop :=
  { Frame.refl _ s with sp := fun h => nomatch h }

theorem Frame.of_push (s : State) (w : Word) : Frame { sp := true, slots := [s.sp.toNat] } s (s.push w) :=
  { Frame.refl _ s with
    sp := fun h => nomatch h
    slots := fun _ hk => s.slot_push_ne w (by simpa using hk) }

theorem Frame.of_raise (s : State) (k : DiagKind) (op : Word) : Frame { diag := true } s (s.raise k op) :=
  { Frame.refl _ s with diag := fun h => nomatch h }

theorem mem_storedAt {s : State} {len a : Nat} : a ∈ s.storedAt len ↔ ∃ k < len, s.indexAddr k = a := by
  simp [State.storedAt]

/-- A store of a run of bytes at I changes the bytes at A(I), A(I + 1), ... alone. -/
theorem Frame.of_writeBytes (s : State) (bs : List Byte) :
    Frame { bytes := s.storedAt bs.length } s (s.setMem (s.mem.writeBytes s.i.toNat bs)) :=
  { Frame.refl _ s with
    bytes := fun _ ha => Memory.read_writeBytes_ne bs s.mem s.i.toNat fun k hk e =>
      ha (mem_storedAt.2 ⟨k, hk, e.symm⟩) }

/-- A wider footprint: everything the narrower one lists is listed in it. -/
theorem Frame.mono {f g : Footprint} {s t : State} (h : Frame f s t) (regs : f.regs ⊆ g.regs)
    (slots : f.slots ⊆ g.slots) (bytes : f.bytes ⊆ g.bytes)
    (flags : (g.index = false → f.index = false) ∧ (g.sp = false → f.sp = false) ∧ (g.delay = false → f.delay = false) ∧
      (g.sound = false → f.sound = false) ∧ (g.wait = false → f.wait = false) ∧
      (g.display = false → f.display = false) ∧ (g.diag = false → f.diag = false) ∧
      (g.draws = false → f.draws = false)) : Frame g s t where
  regs r hr := h.regs r fun hf => hr (regs hf)
  index hg := h.index (flags.1 hg)
  sp hg := h.sp (flags.2.1 hg)
  slots k hk := h.slots k fun hf => hk (slots hf)
  delay hg := h.delay (flags.2.2.1 hg)
  sound hg := h.sound (flags.2.2.2.1 hg)
  mode hg := h.mode (flags.2.2.2.2.1 hg)
  snapshot hg := h.snapshot (flags.2.2.2.2.1 hg)
  bytes a ha := h.bytes a fun hf => ha (bytes hf)
  display hg := h.display (flags.2.2.2.2.2.1 hg)
  keys := h.keys
  diag hg := h.diag (flags.2.2.2.2.2.2.1 hg)
  draws hg := h.draws (flags.2.2.2.2.2.2.2 hg)

end Sys2Proof.Machine
end

