-- ==== Sys2Proof/Laws/PerInstr.lean ====
section
/-!
SUPPORT. Statements made for each instruction by itself. EncodingRow: the word of the instruction belongs to the row of the
opcode table that the instruction stands for (spec/30_encoding.md R93).
-/
namespace Sys2Proof.Laws.EncodingRow

/-- The instruction's row is a row of R93, and the row accepts the instruction's word: its fixed bits are in place. -/
def Statement (i : Instr) : Prop := i.pattern ∈ patterns ∧ i.pattern.accepts (encode i) = true

theorem of_masked {i : Instr} (hp : i.pattern ∈ patterns) (h : encode i &&& i.pattern.mask = i.pattern.value) :
    Statement i := ⟨hp, by simp [Pattern.accepts, h]⟩

theorem cls : Statement (.cls) :=
  of_masked (List.contains_iff_mem.1 rfl) (by decide)

theorem ret : Statement (.ret) :=
  of_masked (List.contains_iff_mem.1 rfl) (by decide)

theorem jp (nnn : Imm12) : Statement (.jp nnn) :=
  of_masked (List.contains_iff_mem.1 rfl) (formatA_masked _ _)

theorem call (nnn : Imm12) : Statement (.call nnn) :=
  of_masked (List.contains_iff_mem.1 rfl) (formatA_masked _ _)

theorem seImm (x : Reg) (nn : Byte) : Statement (.seImm x nn) :=
  of_masked (List.contains_iff_mem.1 rfl) ((formatXNN_masked _ x nn 0x00).trans (congrArg (formatXNN _ 0) BitVec.and_zero))

theorem sneImm (x : Reg) (nn : Byte) : Statement (.sneImm x nn) :=
  of_masked (List.contains_iff_mem.1 rfl) ((formatXNN_masked _ x nn 0x00).trans (congrArg (formatXNN _ 0) BitVec.and_zero))

theorem seReg (x y : Reg) : Statement (.seReg x y) :=
  of_masked (List.contains_iff_mem.1 rfl) (formatXYN_masked _ _ _ _ 0xF)

theorem ldImm (x : Reg) (nn : Byte) : Statement (.ldImm x nn) :=
  of_masked (List.contains_iff_mem.1 rfl) ((formatXNN_masked _ x nn 0x00).trans (congrArg (formatXNN _ 0) BitVec.and_zero))

theorem addImm (x : Reg) (nn : Byte) : Statement (.addImm x nn) :=
  of_masked (List.contains_iff_mem.1 rfl) ((formatXNN_masked _ x nn 0x00).trans (congrArg (formatXNN _ 0) BitVec.and_zero))

theorem ldReg (x y : Reg) : Statement (.ldReg x y) :=
  of_masked (List.contains_iff_mem.1 rfl) (formatXYN_masked _ _ _ _ 0xF)

theorem or (x y : Reg) : Statement (.or x y) :=
  of_masked (List.contains_iff_mem.1 rfl) (formatXYN_masked _ _ _ _ 0xF)

theorem and (x y : Reg) : Statement (.and x y) :=
  of_masked (List.contains_iff_mem.1 rfl) (formatXYN_masked _ _ _ _ 0xF)

theorem xor (x y : Reg) : Statement (.xor x y) :=
  of_masked (List.contains_iff_mem.1 rfl) (formatXYN_masked _ _ _ _ 0xF)

theorem addReg (x y : Reg) : Statement (.addReg x y) :=
  of_masked (List.contains_iff_mem.1 rfl) (formatXYN_masked _ _ _ _ 0xF)

theorem sub (x y : Reg) : Statement (.sub x y) :=
  of_masked (List.contains_iff_mem.1 rfl) (formatXYN_masked _ _ _ _ 0xF)

theorem shr (x y : Reg) : Statement (.shr x y) :=
  of_masked (List.contains_iff_mem.1 rfl) (formatXYN_masked _ _ _ _ 0xF)

theorem subn (x y : Reg) : Statement (.subn x y) :=
  of_masked (List.contains_iff_mem.1 rfl) (formatXYN_masked _ _ _ _ 0xF)

theorem shl (x y : Reg) : Statement (.shl x y) :=
  of_masked (List.contains_iff_mem.1 rfl) (formatXYN_masked _ _ _ _ 0xF)

theorem sneReg (x y : Reg) : Statement (.sneReg x y) :=
  of_masked (List.contains_iff_mem.1 rfl) (formatXYN_masked _ _ _ _ 0xF)

theorem ldI (nnn : Imm12) : Statement (.ldI nnn) :=
  of_masked (List.contains_iff_mem.1 rfl) (formatA_masked _ _)

theorem jpV0 (nnn : Imm12) : Statement (.jpV0 nnn) :=
  of_masked (List.contains_iff_mem.1 rfl) (formatA_masked _ _)

theorem rnd (x : Reg) (nn : Byte) : Statement (.rnd x nn) :=
  of_masked (List.contains_iff_mem.1 rfl) ((formatXNN_masked _ x nn 0x00).trans (congrArg (formatXNN _ 0) BitVec.and_zero))

theorem drw (x y : Reg) (n : Nibble) : Statement (.drw x y n) :=
  of_masked (List.contains_iff_mem.1 rfl) ((formatXYN_masked _ x y n 0x0).trans (congrArg (formatXYN _ 0 0) BitVec.and_zero))

theorem skp (x : Reg) : Statement (.skp x) :=
  of_masked (List.contains_iff_mem.1 rfl) (formatXNN_masked _ _ _ 0xFF)

theorem sknp (x : Reg) : Statement (.sknp x) :=
  of_masked (List.contains_iff_mem.1 rfl) (formatXNN_masked _ _ _ 0xFF)

theorem ldVxDt (x : Reg) : Statement (.ldVxDt x) :=
  of_masked (List.contains_iff_mem.1 rfl) (formatXNN_masked _ _ _ 0xFF)

theorem ldVxK (x : Reg) : Statement (.ldVxK x) :=
  of_masked (List.contains_iff_mem.1 rfl) (formatXNN_masked _ _ _ 0xFF)

theorem ldDtVx (x : Reg) : Statement (.ldDtVx x) :=
  of_masked (List.contains_iff_mem.1 rfl) (formatXNN_masked _ _ _ 0xFF)

theorem ldStVx (x : Reg) : Statement (.ldStVx x) :=
  of_masked (List.contains_iff_mem.1 rfl) (formatXNN_masked _ _ _ 0xFF)

theorem addIVx (x : Reg) : Statement (.addIVx x) :=
  of_masked (List.contains_iff_mem.1 rfl) (formatXNN_masked _ _ _ 0xFF)

theorem ldFVx (x : Reg) : Statement (.ldFVx x) :=
  of_masked (List.contains_iff_mem.1 rfl) (formatXNN_masked _ _ _ 0xFF)

theorem ldBVx (x : Reg) : Statement (.ldBVx x) :=
  of_masked (List.contains_iff_mem.1 rfl) (formatXNN_masked _ _ _ 0xFF)

theorem ldMemVx (x : Reg) : Statement (.ldMemVx x) :=
  of_masked (List.contains_iff_mem.1 rfl) (formatXNN_masked _ _ _ 0xFF)

theorem ldVxMem (x : Reg) : Statement (.ldVxMem x) :=
  of_masked (List.contains_iff_mem.1 rfl) (formatXNN_masked _ _ _ 0xFF)

end Sys2Proof.Laws.EncodingRow
end

