-- ==== Sys2Proof/Laws/Step.lean ====
section
/-!
SUPPORT. What a step can do, said once.
-/
namespace Sys2Proof.Machine

theorem execute_known {op : Word} {i : Instr} (h : decode op = .known i) (s : State) : execute op s = exec i s := by
  simp only [execute, h]

theorem execute_unknown {op op' : Word} (h : decode op = .unknownOpcode op') (s : State) :
    execute op s = .next (s.raise .unknownOpcode op') := by
  simp only [execute, h]

theorem step_running {s : State} (h : s.mode = .running) : step s = execute s.fetchWord s.afterFetch := by
  simp only [step, h, runStep, guardRange_memOob]

theorem step_awaiting {s : State} {t : Reg} (h : s.mode = .awaitingKey t) : step s = awaitKeyStep t s := by
  simp only [step, h]

/-- A step is one of three things: a waiting check, the instruction of the fetched word, or the report of an unknown word;
the last two on the state after fetch (spec/40_step_cycle.md R120, R125). -/
theorem step_cases (s : State) :
    (∃ t, s.mode = .awaitingKey t ∧ step s = awaitKeyStep t s) ∨
    (∃ i, s.mode = .running ∧ decode s.fetchWord = .known i ∧ step s = exec i s.afterFetch) ∨
    (∃ op, s.mode = .running ∧ decode s.fetchWord = .unknownOpcode op ∧
      step s = .next (s.afterFetch.raise .unknownOpcode op)) := by
  cases hm : s.mode with
  | awaitingKey t => exact .inl ⟨t, rfl, step_awaiting hm⟩
  | running =>
    cases hd : decode s.fetchWord with
    | known i => exact .inr (.inl ⟨i, rfl, rfl, by rw [step_running hm, execute_known hd]⟩)
    | unknownOpcode op => exact .inr (.inr ⟨op, rfl, rfl, by rw [step_running hm, execute_unknown hd]⟩)

/-- A waiting check answers one of two states: the lowest new key taken, or the keys sampled
(spec/45_keypad_timers.md R234). -/
theorem awaitKeyStep_cases (t : Reg) (s : State) :
    (∃ k, lowestKey s.newKeys = some k ∧
      awaitKeyStep t s = .next ((s.setReg t (BitVec.ofNat 8 k)).setMode .running)) ∨
    (lowestKey s.newKeys = none ∧ awaitKeyStep t s = .next (s.setSnapshot s.keys)) := by
  unfold awaitKeyStep
  cases lowestKey s.newKeys with
  | some k => exact .inl ⟨k, rfl, rfl⟩
  | none => exact .inr ⟨rfl, rfl⟩

end Sys2Proof.Machine
end

