-- ==== Sys2Proof/Tests/Slice0.lean ====
section
/-!
SUPPORT. Tests. Expected values are the spec's: the vectors of spec/95_test_vectors.md, named by their ids, and the words of
spec/30_encoding.md R93. Then the witnesses: for each statement with hypotheses, a state and operands that meet them.
-/
namespace Sys2Proof.Tests

open Sys2Proof.Machine

/-! ## What the checks refuse -/

theorem test_known_word_refuses_each_unknown_class :
    knownWord 0x0123 = false ∧ knownWord 0x0000 = false ∧ knownWord 0x5121 = false ∧ knownWord 0x8008 = false ∧
    knownWord 0x900F = false ∧ knownWord 0xE09F = false ∧ knownWord 0xF0FF = false ∧ knownWord 0x00EE = true := by
  decide

theorem test_image_of_3585_bytes_is_refused :
    imageFits (List.replicate 3585 0) = false ∧ imageFits (List.replicate 3584 0) = true := by
  unfold imageFits
  rw [List.length_replicate, List.length_replicate]
  decide

theorem test_memory_wf_refuses_order_repeats_range_and_reset_content :
    Memory.wf [(0x300, 1), (0x2FF, 1)] = false ∧ Memory.wf [(0x300, 1), (0x300, 2)] = false ∧
    Memory.wf [(0x1000, 1)] = false ∧ Memory.wf [(0x300, 0)] = false ∧ Memory.wf [(0x000, 0xF0)] = false ∧
    Memory.wf [(0x000, 0xF1), (0x300, 1)] = true := by
  decide

/-! ## Decoding: words written out bit by bit from R91 and R93 -/

theorem test_decode_display :
    decode 0b0000000011100000#16 = .known .cls ∧ decode 0b1101000100100101#16 = .known (.drw 1 2 5) := by decide

theorem test_decode_control :
    decode 0b0000000011101110#16 = .known .ret ∧ decode 0b0001001000110100#16 = .known (.jp 0x234) ∧
    decode 0b0010001000010000#16 = .known (.call 0x210) ∧ decode 0b0011001100010010#16 = .known (.seImm 3 0x12) ∧
    decode 0b0100001100010010#16 = .known (.sneImm 3 0x12) ∧ decode 0b0101000100100000#16 = .known (.seReg 1 2) ∧
    decode 0b1001000100100000#16 = .known (.sneReg 1 2) ∧ decode 0b1011001100000000#16 = .known (.jpV0 0x300) := by
  decide

theorem test_decode_alu :
    decode 0b0110101010011100#16 = .known (.ldImm 10 0x9C) ∧ decode 0b0111000111111111#16 = .known (.addImm 1 0xFF) ∧
    decode 0b1000000100100000#16 = .known (.ldReg 1 2) ∧ decode 0b1000000100100001#16 = .known (.or 1 2) ∧
    decode 0b1000000100100010#16 = .known (.and 1 2) ∧ decode 0b1000000100100011#16 = .known (.xor 1 2) ∧
    decode 0b1000000100100100#16 = .known (.addReg 1 2) ∧ decode 0b1000000100100101#16 = .known (.sub 1 2) ∧
    decode 0b1000000100100110#16 = .known (.shr 1 2) ∧ decode 0b1000000100100111#16 = .known (.subn 1 2) ∧
    decode 0b1000000100101110#16 = .known (.shl 1 2) ∧ decode 0b1100001100001111#16 = .known (.rnd 3 0x0F) := by
  decide

theorem test_decode_index :
    decode 0b1010001100000000#16 = .known (.ldI 0x300) ∧ decode 0b1111000000011110#16 = .known (.addIVx 0) ∧
    decode 0b1111000000101001#16 = .known (.ldFVx 0) ∧ decode 0b1111101000110011#16 = .known (.ldBVx 10) ∧
    decode 0b1111001001010101#16 = .known (.ldMemVx 2) ∧ decode 0b1111001001100101#16 = .known (.ldVxMem 2) := by
  decide

theorem test_decode_keypad :
    decode 0b1110000110011110#16 = .known (.skp 1) ∧ decode 0b1110000010100001#16 = .known (.sknp 0) ∧
    decode 0b1111001100000111#16 = .known (.ldVxDt 3) ∧ decode 0b1111000000001010#16 = .known (.ldVxK 0) ∧
    decode 0b1111000000010101#16 = .known (.ldDtVx 0) ∧ decode 0b1111000100011000#16 = .known (.ldStVx 1) := by
  decide

/-- L2-S5 to L2-S8: unknown words, each rejected under its own word. -/
theorem test_decode_unknown :
    decode 0x0FFF = .unknownOpcode 0x0FFF ∧ decode 0x512F = .unknownOpcode 0x512F ∧
    decode 0x9001 = .unknownOpcode 0x9001 ∧ decode 0x800D = .unknownOpcode 0x800D ∧
    decode 0xE0A0 = .unknownOpcode 0xE0A0 ∧ decode 0xF01F = .unknownOpcode 0xF01F ∧
    decode 0xFFFF = .unknownOpcode 0xFFFF := by
  decide

theorem test_encode_words :
    encode (.drw 1 2 5) = 0xD125 ∧ encode (.call 0x210) = 0x2210 ∧ encode (.seImm 3 0x12) = 0x3312 ∧
    encode (.shl 1 2) = 0x812E ∧ encode (.ldVxMem 2) = 0xF265 := by
  decide

theorem test_decode_bytes_needs_two :
    decodeBytes [0x12] = none ∧ decodeBytes [0x12, 0x34, 0x56] = some (.known (.jp 0x234), [0x56]) := by decide

theorem test_decode_table_word :
    decodeTableWord 16 0x8124 = some (.addReg 1 2) ∧ decodeTableWord 16 0x0000 = none := by decide

/-! ## One step -/

/-- A state about to fetch `op` at `pc`, with some registers set. -/
def at_ (pc : Nat) (op : Word) (regs : List (Reg × Byte)) : State :=
  regs.foldl (fun s p => s.setReg p.1 p.2) ((State.reset.setPc pc).withWord op)

/-- The answer is a next state that passes a check. -/
def passes (r : Result) (check : State → Bool) : Bool :=
  match r with
  | .next t => check t
  | _ => false

/-- L2-S1. -/
theorem test_ldImm : passes (step (at_ 0x200 0x6A9C [])) (fun t => t.reg 10 == 0x9C && t.pc == 0x202) = true := by decide

/-- L2-S2: the pc wraps. -/
theorem test_fetch_at_FFE : passes (step (at_ 0xFFE 0x6001 [])) (fun t => t.reg 0 == 1 && t.pc == 0x000) = true := by decide

/-- L2-S3: the second byte of the fetch at 0xFFF is the font's first. -/
theorem test_fetch_at_FFF :
    passes (step ((State.reset.setPc 0xFFF).setMem (Memory.write [] 0xFFF 0x12))) (fun t => t.pc == 0x2F0) = true := by decide

/-- L2-S4: an odd pc. -/
theorem test_fetch_odd : passes (step (at_ 0x201 0x6123 [])) (fun t => t.reg 1 == 0x23 && t.pc == 0x203 && t.diag == []) = true := by
  decide

/-- L2-R3: reset state, no Load. -/
theorem test_unknown_after_reset :
    passes (step State.reset) (fun t => t.diag == [⟨.unknownOpcode, 0x0000, 0x200⟩] && t.pc == 0x202) = true := by decide

/-- L2-C5, L2-C6. -/
theorem test_ret_underflow :
    passes (step (at_ 0x200 0x00EE []))
      (fun t => t.diag == [⟨.stackUnderflow, 0x00EE, 0x200⟩] && t.pc == 0x202 && t.sp == 0) = true := by decide

theorem test_ret :
    passes (step (((at_ 0x400 0x00EE []).push 0x206).push 0x312))
      (fun t => t.sp == 1 && t.pc == 0x312 && t.slot 1 == 0x312) = true := by decide

/-- L2-C1, L2-C2. -/
theorem test_jp : passes (step (at_ 0x200 0x1201 [])) (fun t => t.pc == 0x201 && t.diag == []) = true := by decide

/-- L2-C3, L2-C4. -/
theorem test_call :
    passes (step (at_ 0x204 0x2210 [])) (fun t => t.slot 0 == 0x206 && t.sp == 1 && t.pc == 0x210) = true := by decide

theorem test_call_overflow :
    passes (step { at_ 0x300 0x2400 [] with sp := 16 })
      (fun t => t.diag == [⟨.stackOverflow, 0x2400, 0x300⟩] && t.pc == 0x302 && t.sp == 16) = true := by decide

/-- L2-C7, L2-C8. -/
theorem test_seImm :
    passes (step (at_ 0x200 0x3312 [(3, 0x12)])) (fun t => t.pc == 0x204) = true ∧
    passes (step (at_ 0x200 0x3312 [(3, 0x13)])) (fun t => t.pc == 0x202) = true := by decide

/-- L2-S11: the skip wraps. -/
theorem test_skip_wraps : passes (step (at_ 0xFFE 0x3300 [])) (fun t => t.pc == 0x002) = true := by decide

/-- L2-C9, L2-C10. -/
theorem test_sneImm :
    passes (step (at_ 0x200 0x4312 [(3, 0x13)])) (fun t => t.pc == 0x204) = true ∧
    passes (step (at_ 0x200 0x4312 [(3, 0x12)])) (fun t => t.pc == 0x202) = true := by decide

/-- L2-C11, L2-C12. -/
theorem test_seReg :
    passes (step (at_ 0x300 0x5120 [(1, 7), (2, 7)])) (fun t => t.pc == 0x304) = true ∧
    passes (step (at_ 0x300 0x5110 [(1, 9)])) (fun t => t.pc == 0x304) = true := by decide

/-- L2-C13, L2-C14. -/
theorem test_sneReg :
    passes (step (at_ 0x300 0x9120 [(1, 7), (2, 8)])) (fun t => t.pc == 0x304) = true ∧
    passes (step (at_ 0x300 0x9110 [(1, 9)])) (fun t => t.pc == 0x302) = true := by decide

/-- L2-C15, L2-C16, L2-C17. -/
theorem test_jpV0 :
    passes (step (at_ 0x200 0xB300 [(0, 4)])) (fun t => t.pc == 0x304) = true ∧
    passes (step (at_ 0x200 0xBFFF [(0, 0x10)])) (fun t => t.pc == 0x00F) = true ∧
    passes (step (at_ 0x200 0xBF01 [(0, 0xFF)])) (fun t => t.pc == 0x000) = true := by decide

/-- L2-A2, L2-A3. -/
theorem test_addImm :
    passes (step (at_ 0x200 0x71FF [(1, 5), (15, 1)])) (fun t => t.reg 1 == 4 && t.reg 15 == 1) = true ∧
    passes (step (at_ 0x200 0x7FFF [(15, 1)])) (fun t => t.reg 15 == 0) = true := by decide

/-- L2-A4. -/
theorem test_ldReg : passes (step (at_ 0x200 0x8120 [(2, 0x33)])) (fun t => t.reg 1 == 0x33) = true := by decide

/-- L2-A5, L2-A6, L2-A7. -/
theorem test_or :
    passes (step (at_ 0x200 0x8121 [(1, 0xF0), (2, 0x0F), (15, 1)])) (fun t => t.reg 1 == 0xFF && t.reg 15 == 1) = true := by
  decide

theorem test_and :
    passes (step (at_ 0x200 0x8122 [(1, 0xF3), (2, 0x3F), (15, 1)])) (fun t => t.reg 1 == 0x33 && t.reg 15 == 1) = true := by
  decide

theorem test_xor : passes (step (at_ 0x200 0x8123 [(1, 0xF3), (2, 0x3F)])) (fun t => t.reg 1 == 0xCC) = true := by decide

/-- L1-2, L2-A12, L2-A13. -/
theorem test_addReg :
    passes (step (at_ 0x200 0x8124 [(1, 200), (2, 100)])) (fun t => t.reg 1 == 44 && t.reg 15 == 1) = true ∧
    passes (step (at_ 0x200 0x81F4 [(1, 0xFF), (15, 1)])) (fun t => t.reg 1 == 0 && t.reg 15 == 1) = true := by decide

theorem test_addReg_into_VF :
    passes (step (at_ 0x200 0x8F14 [(15, 200), (1, 100)])) (fun t => t.reg 15 == 1) = true := by decide

/-- L1-3, L2-A15, L2-A17. -/
theorem test_sub :
    passes (step (at_ 0x200 0x8125 [(1, 10), (2, 20)])) (fun t => t.reg 1 == 246 && t.reg 15 == 0) = true ∧
    passes (step (at_ 0x200 0x8125 [(1, 0x42), (2, 0x42)])) (fun t => t.reg 1 == 0 && t.reg 15 == 1) = true := by decide

theorem test_sub_into_VF :
    passes (step (at_ 0x200 0x8F15 [(15, 0x0A), (1, 0x14)])) (fun t => t.reg 15 == 0) = true := by decide

/-- L2-A19, L2-A21. -/
theorem test_shr :
    passes (step (at_ 0x200 0x8126 [(1, 0xFF)])) (fun t => t.reg 1 == 0x7F && t.reg 15 == 1) = true ∧
    passes (step (at_ 0x200 0x8F06 [(15, 5)])) (fun t => t.reg 15 == 1) = true := by decide

/-- L2-A22, L2-A23. -/
theorem test_subn :
    passes (step (at_ 0x200 0x8127 [(1, 0x0A), (2, 0x14)])) (fun t => t.reg 1 == 0x0A && t.reg 15 == 1) = true ∧
    passes (step (at_ 0x200 0x8127 [(1, 0x14), (2, 0x0A)])) (fun t => t.reg 1 == 0xF6 && t.reg 15 == 0) = true := by decide

/-- L2-A26, L2-A27, L2-A28. -/
theorem test_shl :
    passes (step (at_ 0x200 0x812E [(1, 0x81)])) (fun t => t.reg 1 == 2 && t.reg 15 == 1) = true ∧
    passes (step (at_ 0x200 0x810E [(1, 0x7F)])) (fun t => t.reg 1 == 0xFE && t.reg 15 == 0) = true ∧
    passes (step (at_ 0x200 0x8F0E [(15, 0x81)])) (fun t => t.reg 15 == 1) = true := by decide

/-- L2-A30: nn = 0 gives 0 whatever the draw; the draw is taken. -/
theorem test_rnd_zero_mask :
    ∃ t, step (at_ 0x200 0xC300 [(3, 9)]) = .next t ∧ t.reg 3 = 0 ∧ t.draws = 1 := by
  refine ⟨_, rfl, ?_, rfl⟩
  show Config.draw8 0 &&& 0 = 0
  simp

/-- L2-M1. -/
theorem test_ldI : passes (step (at_ 0x200 0xA300 [])) (fun t => t.i == 0x0300) = true := by decide

/-- L2-M2, L2-M3. -/
theorem test_addIVx :
    passes (step ((at_ 0x200 0xF01E [(0, 2)]).setIndex 0x0FFF)) (fun t => t.i == 0x1001) = true ∧
    passes (step ((at_ 0x200 0xF01E [(0, 1)]).setIndex 0xFFFF)) (fun t => t.i == 0 && t.reg 15 == 0) = true := by decide

/-- L2-M5, L2-M6. -/
theorem test_ldFVx :
    passes (step (at_ 0x200 0xF029 [(0, 0x1A)])) (fun t => t.i == 0x032) = true ∧
    passes (step (at_ 0x200 0xF029 [(0, 0xFF)])) (fun t => t.i == 0x04B) = true := by decide

/-- L2-M7, L2-M12: the digits wrap into the font. -/
theorem test_ldBVx :
    passes (step ((at_ 0x200 0xFA33 [(10, 156)]).setIndex 0x300))
      (fun t => t.mem.readBytes 0x300 3 == [1, 5, 6] && t.i == 0x300) = true ∧
    passes (step ((at_ 0x200 0xF033 [(0, 123)]).setIndex 0xFFE))
      (fun t => t.mem.read 0xFFE == 1 && t.mem.read 0xFFF == 2 && t.mem.read 0 == 3) = true := by decide

/-- L2-M13, L2-M14. -/
theorem test_ldMemVx :
    passes (step ((at_ 0x200 0xF255 [(0, 1), (1, 2), (2, 3), (3, 9)]).setIndex 0x400))
      (fun t => t.mem.readBytes 0x400 4 == [1, 2, 3, 0] && t.i == 0x400) = true ∧
    passes (step ((at_ 0x200 0xF055 [(0, 0xAB), (1, 7)]).setIndex 0x400))
      (fun t => t.mem.readBytes 0x400 2 == [0xAB, 0]) = true := by decide

/-- L2-M16: the first glyph. -/
theorem test_ldVxMem :
    passes (step (at_ 0x200 0xF465 [(5, 7)]))
      (fun t => t.reg 0 == 0xF0 && t.reg 1 == 0x90 && t.reg 4 == 0xF0 && t.reg 5 == 7 && t.i == 0) = true := by decide

/-- R34: the glyphs of 5, B and F as the table gives them. -/
theorem test_font :
    Memory.readBytes [] 0x019 5 = [0xF0, 0x80, 0xF0, 0x10, 0xF0] ∧
    Memory.readBytes [] 0x037 5 = [0xE0, 0x90, 0xE0, 0x90, 0xE0] ∧
    Memory.readBytes [] 0x04B 6 = [0xF0, 0x80, 0xF0, 0x80, 0x80, 0x00] := by decide

/-- L2-D7. -/
theorem test_cls :
    passes (step ((at_ 0x200 0x00E0 [(15, 1)]).setFb (Framebuffer.blank.setPixel 3 4 true)))
      (fun t => t.fb.pixel 3 4 == false && t.reg 15 == 1) = true := by decide

/-- L2-D1, on four pixels of it. -/
theorem test_drw_glyph :
    passes (step ((at_ 0x200 0xD125 [(1, 0x0A), (2, 2)]).setIndex 0x019))
      (fun t => t.fb.pixel 2 13 && t.fb.pixel 3 10 && !t.fb.pixel 3 11 && t.fb.pixel 5 13 && t.reg 15 == 0) = true := by decide

/-- L2-D4: n = 0. -/
theorem test_drw_no_rows :
    passes (step (at_ 0x200 0xD120 [(15, 1)])) (fun t => t.reg 15 == 0 && !t.fb.pixel 0 0) = true := by decide

/-- L2-D5 and P5: the bottom right corner under both policies. -/
theorem test_drw_edges :
    let s := at_ 0x206 0xD015 [(0, 0x3E), (1, 0x1E)]
    let clipped := (s.drawn .clip 0 1 5).fb
    let wrapped := (s.drawn .wrap 0 1 5).fb
    (clipped.pixel 30 63 && clipped.pixel 31 62 && !clipped.pixel 31 63 && !clipped.pixel 30 0 && !clipped.pixel 0 62) = true ∧
    (wrapped.pixel 30 63 && wrapped.pixel 30 1 && wrapped.pixel 31 1 && wrapped.pixel 0 62 && !wrapped.pixel 0 63) = true := by
  decide

/-- L2-K1, L2-K2. -/
theorem test_skp :
    passes (step (setKeys 0x0020 (at_ 0x200 0xE09E [(0, 0x15)]))) (fun t => t.pc == 0x204) = true ∧
    passes (step (at_ 0x200 0xE09E [(0, 5)])) (fun t => t.pc == 0x202) = true := by decide

/-- L2-K3, L2-K4. -/
theorem test_sknp :
    passes (step (at_ 0x200 0xE0A1 [(0, 5)])) (fun t => t.pc == 0x204) = true ∧
    passes (step (setKeys 0x0020 (at_ 0x200 0xE0A1 [(0, 5)]))) (fun t => t.pc == 0x202) = true := by decide

/-- L2-K5. -/
theorem test_ldVxDt :
    passes (step ((at_ 0x200 0xF307 []).setDelay 0x3C)) (fun t => t.reg 3 == 0x3C && t.dt == 0x3C) = true := by decide

/-- L2-K6. -/
theorem test_ldDtVx : passes (step (at_ 0x200 0xF015 [(0, 0x3C)])) (fun t => t.dt == 0x3C && t.st == 0) = true := by decide

/-- L2-K7. -/
theorem test_ldStVx : passes (step (at_ 0x200 0xF118 [(1, 2)])) (fun t => t.st == 2 && soundOn t) = true := by decide

/-- L2-K12, the first step: a key held at entry is in the snapshot. -/
theorem test_ldVxK :
    passes (step (setKeys 0x0008 (at_ 0x200 0xF00A [])))
      (fun t => t.mode == .awaitingKey 0 && t.ks == 0x0008 && t.pc == 0x202) = true := by decide

/-- L2-K11: the lowest new key; no fetch. -/
theorem test_await_takes_lowest :
    passes (step (setKeys 0x0014 ((at_ 0x202 0x6101 []).setMode (.awaitingKey 0))))
      (fun t => t.reg 0 == 2 && t.mode == .running && t.pc == 0x202 && t.reg 1 == 0) = true := by decide

/-- L2-K9. -/
theorem test_tick :
    (tick ((State.reset.setDelay 0xFF).setSound 1)).dt = 0xFE ∧ (tick ((State.reset.setDelay 0xFF).setSound 1)).st = 0 ∧
    soundOn (tick ((State.reset.setDelay 0xFF).setSound 1)) = false ∧ (tick State.reset).dt = 0 := by decide

/-- L2-R2: Reset ends a wait and keeps the records. -/
theorem test_reset_event :
    let s := ((State.reset.setMode (.awaitingKey 3)).setReg 3 0x77).raise .unknownOpcode 0
    (resetEvent s).mode = .running ∧ (resetEvent s).reg 3 = 0 ∧ (resetEvent s).diag = s.diag := by decide

/-- L2-R4, L2-R5. -/
theorem test_load_and_setKeys :
    passes (applyEvent (.load [0x12, 0x34]) State.reset)
      (fun t => t.mem.read 0x200 == 0x12 && t.mem.read 0x201 == 0x34 && t.pc == 0x200) = true ∧
    (setKeys 0x8001 State.reset).keys = 0x8001 := by decide

/-! ## Witnesses: states and operands that meet the hypotheses of a statement -/

theorem witness_EncodeOfDecodeIsTheWord : decode 0x8126 = .known (.shr 1 2) := by decide

theorem witness_OpcodeRowsAreDisjoint :
    (⟨0xF00F, 0x8004⟩ : Pattern) ∈ patterns ∧ Pattern.accepts ⟨0xF00F, 0x8004⟩ 0x8124 = true := by decide

theorem witness_StepRunsTheDecodedInstruction :
    (at_ 0x200 0x6A9C []).mode = .running ∧ decode (at_ 0x200 0x6A9C []).fetchWord = .known (.ldImm 10 0x9C) := by decide

/-- Also for StepKeepsTheInvariants, StepAppendsAtMostOneRecord, StepLeavesKeysAndTakesDrawsOnlyForRnd and
ConditionsArePrecise: reset is an invariant state whose step answers a next state, with a record more. -/
theorem witness_UnknownOpcodeIsReportedAndSkipped :
    State.reset.mode = .running ∧ State.reset.pc.toNat < 4096 ∧
    decode State.reset.fetchWord = .unknownOpcode State.reset.fetchWord ∧
    passes (step State.reset) (fun t => t.diag != State.reset.diag) = true := by decide

/-- Each kind of record: the boundary values of SP. -/
theorem witness_ConditionsArePrecise :
    passes (step (at_ 0x200 0x00EE [])) (fun t => t.diag != []) = true ∧
    passes (step { at_ 0x300 0x2400 [] with sp := 16 }) (fun t => t.diag != []) = true := by decide

theorem witness_Inv : State.reset.Inv := ⟨by decide, by decide, by decide, rfl⟩

theorem witness_Inv_after_call : (State.reset.push 0x206).Inv ∧ (State.reset.push 0x206).sp.toNat ≠ 0 :=
  ⟨⟨by decide, by decide, by decide, rfl⟩, by decide⟩

theorem witness_EveryRunOfEventsKeepsTheInvariants :
    ∀ bytes, Event.load bytes ∈ [Event.load [0x12, 0x34], .step, .tick, .setKeys 1, .reset] → bytes.length ≤ 3584 := by
  intro bytes h
  simp at h
  subst h
  decide

theorem witness_NoInstructionWritesOutsideItsFootprint :
    exec .cls State.reset = .next (State.reset.setFb Framebuffer.blank) := rfl

theorem witness_ParkedStepChangesNothing : (at_ 0x20C 0x120C []).parked :=
  ⟨by decide, 0x20C, by decide, by decide⟩

theorem witness_MemoryReadsTheLastWrite : Memory.wf [(0x300, 1)] = true ∧ 0xFFF < 4096 := by decide

theorem witness_CanonicalMemoriesWithEqualReadsAreEqual :
    Memory.wf [(0x300, 1)] = true ∧ ∀ a, a < 4096 → Memory.read [(0x300, 1)] a = Memory.read [(0x300, 1)] a :=
  ⟨by decide, fun _ _ => rfl⟩

theorem witness_AccessPastTheEndFollowsThePolicy :
    (∀ k < 2, 0xFFE + k < 4096) ∧ (∃ k < 2, 4096 ≤ 0xFFF + k) := by decide

theorem witness_StoredWordIsFetchedNext :
    (State.reset.setIndex 0x1200).mem.wf = true ∧ 1 ≤ (1 : Reg).val ∧ (State.reset.setIndex 0x1200).pc.toNat < 4096 ∧
    (State.reset.setIndex 0x1200).indexAddr 0 = (State.reset.setIndex 0x1200).pc.toNat := by decide

theorem witness_RetOnEmptyStackIsReported : State.reset.sp = 0 := by decide

/-- The last free slot. -/
theorem witness_CallPushesTheReturnAddress : ({ State.reset with sp := 15 } : State).sp.toNat < 16 := by decide

theorem witness_CallOnFullStackIsReported : ({ State.reset with sp := 16 } : State).sp = 16 := by decide

theorem witness_Skips :
    (State.reset.setReg 3 0x12).reg 3 = 0x12 ∧ (State.reset.setReg 3 0x12).reg 3 ≠ 0x13 ∧
    State.reset.reg 1 = State.reset.reg 2 ∧ (State.reset.setReg 3 0x12).reg 3 ≠ (State.reset.setReg 3 0x12).reg 2 := by decide

theorem witness_KeySkipsTestTheKey :
    (setKeys 0x8000 (State.reset.setReg 0 0xFF)).keys.getLsbD (((State.reset.setReg 0 0xFF).reg 0).toNat % 16) = true ∧
    State.reset.keys.getLsbD ((State.reset.reg 0).toNat % 16) = false := by decide

theorem witness_CallThenRetComesBack :
    let s := (at_ 0x200 0x2300 []).setMem ((at_ 0x200 0x2300 []).mem.placeWord 0x300 0x00EE)
    s.mode = .running ∧ s.sp.toNat < 16 ∧ decode s.fetchWord = .known (.call 0x300) ∧
    decode (s.mem.wordAt (0x300 : Imm12).toNat) = .known .ret := by decide

theorem witness_stores : State.reset.mem.wf = true := rfl

theorem witness_DrawTwiceRestoresTheDisplay : (1 : Reg) ≠ regVF ∧ (2 : Reg) ≠ regVF := by decide

/-- Key 15, the highest, with key 3 held since the last sample. -/
theorem witness_WaitTakesTheLowestNewKey :
    let s := (setKeys 0x8008 (State.reset.setMode (.awaitingKey 0))).setSnapshot 0x0008
    s.mode = .awaitingKey 0 ∧ s.keys.getLsbD 15 = true ∧ s.ks.getLsbD 15 = false ∧
    (∀ j < 15, ¬ (s.keys.getLsbD j = true ∧ s.ks.getLsbD j = false)) := by decide

theorem witness_WaitWithoutANewKey :
    let s := (setKeys 0x0008 (State.reset.setMode (.awaitingKey 0))).setSnapshot 0x0008
    s.mode = .awaitingKey 0 ∧ (∀ k < 16, ¬ (s.keys.getLsbD k = true ∧ s.ks.getLsbD k = false)) ∧
    s.keys &&& ~~~s.ks = 0 ∧ (∀ e ∈ [Event.step, .tick], e = .step ∨ e = .tick) := by decide

theorem witness_LoadWritesTheImage :
    ([0x12, 0x34] : List Byte).length ≤ 3584 ∧ 3584 < (List.replicate 3585 (0 : Byte)).length := by
  rw [List.length_replicate]
  decide

theorem witness_LoadedProgramRunsFirst : ([] : List Byte).length ≤ 3582 := by decide

end Sys2Proof.Tests
end

/-!
PROOFS of the statements about the state (spec/10_state.md). First the rules they share: an answer read off, the frames and
the invariants of the operations, the two cases of RET and CALL; then what an instruction, a step and a host event do.
-/
namespace Sys2Proof.Machine

/-! ## Answers -/

/-- What holds of the state an event answers holds of any name for that state. -/
theorem of_answer {P : State → Prop} {r : Result} {t : State} (h : ∃ u, r = .next u ∧ P u) (ht : r = .next t) : P t := by
  obtain ⟨u, hu, hP⟩ := h
  cases hu.symm.trans ht
  exact hP

/-! ## Frames of the remaining operations -/

theorem Frame.trans {f : Footprint} {s t u : State} (h : Frame f s t) (h' : Frame f t u) : Frame f s u where
  regs r hr := (h'.regs r hr).trans (h.regs r hr)
  index hf := (h'.index hf).trans (h.index hf)
  sp hf := (h'.sp hf).trans (h.sp hf)
  slots k hk := (h'.slots k hk).trans (h.slots k hk)
  delay hf := (h'.delay hf).trans (h.delay hf)
  sound hf := (h'.sound hf).trans (h.sound hf)
  mode hf := (h'.mode hf).trans (h.mode hf)
  snapshot hf := (h'.snapshot hf).trans (h.snapshot hf)
  bytes a ha := (h'.bytes a ha).trans (h.bytes a ha)
  display hf := (h'.display hf).trans (h.display hf)
  keys := h'.keys.trans h.keys
  diag hf := (h'.diag hf).trans (h.diag hf)
  draws hf := (h'.draws hf).trans (h.draws hf)

theorem Frame.of_writeBytes_regsUpTo (s : State) (x : Reg) :
    Frame { bytes := s.storedAt (x.val + 1) } s (s.setMem (s.mem.writeBytes s.i.toNat (s.regsUpTo x))) := by
  simpa only [State.regsUpTo_length] using Frame.of_writeBytes s (s.regsUpTo x)

theorem Frame.of_setFb_setFlag (s : State) (fb : Framebuffer) (g : Bool) :
    Frame { regs := [regVF], display := true } s ((s.setFb fb).setFlag g) :=
  { Frame.of_setReg s regVF _ with display := (nomatch ·) }

theorem Frame.of_takeDraw_setReg (s : State) (x : Reg) (b : Byte) :
    Frame { regs := [x], draws := true } s (s.takeDraw.setReg x b) :=
  { Frame.of_setReg s x b with draws := (nomatch ·) }

theorem Frame.of_setMode_setSnapshot (s : State) (m : Mode) (w : Word) :
    Frame { wait := true } s ((s.setMode m).setSnapshot w) :=
  { Frame.refl _ s with mode := (nomatch ·), snapshot := (nomatch ·) }

theorem Frame.of_tick (s : State) : Frame { delay := true, sound := true } s (tick s) :=
  { Frame.refl _ s with delay := (nomatch ·), sound := (nomatch ·) }

/-! ## The invariants of R35, operation by operation -/

/-- The invariants speak of the pc, the stack and the memory alone. -/
theorem State.Inv.of_eq {s t : State} (h : s.Inv) (pc : t.pc = s.pc) (sp : t.sp = s.sp) (stack : t.stack = s.stack)
    (mem : t.mem = s.mem) : t.Inv where
  pc_lt := pc ▸ h.pc_lt
  sp_le := sp ▸ h.sp_le
  slot_lt k := State.slot_congr stack k ▸ h.slot_lt k
  mem_wf := mem ▸ h.mem_wf

theorem State.Inv.setPc {s : State} (h : s.Inv) (e : Nat) : (s.setPc e).Inv :=
  { h with pc_lt := s.setPc_pc_lt e }

theorem State.Inv.skipIf {s : State} (h : s.Inv) (c : Bool) : (s.skipIf c).Inv := by
  cases c
  · exact h
  · exact h.setPc _

theorem State.Inv.afterFetch {s : State} (h : s.Inv) : s.afterFetch.Inv := h.setPc _

theorem State.Inv.writeBytes {s : State} (h : s.Inv) (e : Nat) (bs : List Byte) :
    (s.setMem (s.mem.writeBytes e bs)).Inv :=
  { h with mem_wf := Memory.wf_writeBytes bs h.mem_wf e }

theorem State.Inv.pop {s : State} (h : s.Inv) (hsp : s.sp ≠ 0) : s.pop.Inv :=
  { h with
    sp_le := by
      have := h.sp_le
      simp only [State.pop_sp]
      bv_omega }

theorem State.Inv.push {s : State} (h : s.Inv) (hsp : s.sp ≠ 16) {w : Word} (hw : w.toNat < 4096) : (s.push w).Inv := by
  have hlt : s.sp.toNat < 16 := by
    have := h.sp_le
    bv_omega
  refine { h with sp_le := ?_, slot_lt := fun k => ?_ }
  · simp only [State.push_sp]
    bv_omega
  · by_cases hk : k.val = s.sp.toNat
    · rw [hk, s.slot_push_same w hlt]
      exact hw
    · rw [s.slot_push_ne w hk]
      exact h.slot_lt k

theorem State.reset_inv : State.reset.Inv where
  pc_lt := by decide
  sp_le := by decide
  slot_lt := by decide
  mem_wf := Memory.wf_reset

/-! ## RET and CALL, case by case (spec/41_control_flow.md R140, R142) -/

theorem execRet_empty {s : State} (h : s.sp = 0) : execRet s = .next (s.raise .stackUnderflow (encode .ret)) := if_pos h

theorem execRet_nonempty {s : State} (h : s.sp ≠ 0) :
    execRet s = .next (s.pop.setPc (s.slot s.pop.sp.toNat).toNat) := if_neg h

theorem execCall_full {s : State} (nnn : Imm12) (h : s.sp = 16) :
    execCall nnn s = .next (s.raise .stackOverflow (encode (.call nnn))) := if_pos h

theorem execCall_free {s : State} (nnn : Imm12) (h : s.sp ≠ 16) :
    execCall nnn s = .next ((s.push s.pc).setPc nnn.toNat) := if_neg h

theorem execRet_answers_in_frame (s : State) :
    ∃ t, execRet s = .next t ∧ Frame { sp := true, diag := true } s t := by
  by_cases h : s.sp = 0
  · exact ⟨_, execRet_empty h, (Frame.of_raise s _ _).mono (List.nil_subset _) (List.nil_subset _) (List.nil_subset _)
      (by simp)⟩
  · exact ⟨_, execRet_nonempty h, ((Frame.of_pop s).mono (List.nil_subset _) (List.nil_subset _) (List.nil_subset _)
      (by simp)).setPc _⟩

theorem execCall_answers_in_frame (nnn : Imm12) (s : State) :
    ∃ t, execCall nnn s = .next t ∧ Frame { sp := true, slots := [s.sp.toNat], diag := true } s t := by
  by_cases h : s.sp = 16
  · exact ⟨_, execCall_full nnn h, (Frame.of_raise s _ _).mono (List.nil_subset _) (List.nil_subset _)
      (List.nil_subset _) (by simp)⟩
  · refine ⟨_, execCall_free nnn h, Frame.setPc ?_ _⟩
    exact (Frame.of_push s _).mono (List.nil_subset _) (List.Subset.refl _) (List.nil_subset _) (by simp)

/-! ## What an instruction does -/

/-- Every instruction answers a next state, the same as before outside its row of the table of R22. -/
theorem exec_answers_in_frame (i : Instr) (s : State) : ∃ t, exec i s = .next t ∧ Frame (footprint i s) s t := by
  cases i with
  | cls => exact ⟨_, rfl, .of_setFb s _⟩
  | ret => exact execRet_answers_in_frame s
  | call nnn => exact execCall_answers_in_frame nnn s
  | jp _ | jpV0 _ => exact ⟨_, rfl, (Frame.refl _ s).setPc _⟩
  | seImm _ _ | sneImm _ _ | seReg _ _ | sneReg _ _ | skp _ | sknp _ => exact ⟨_, rfl, (Frame.refl _ s).skipIf _⟩
  | ldImm x _ | addImm x _ | ldReg x _ | or x _ | and x _ | xor x _ | ldVxDt x => exact ⟨_, rfl, .of_setReg s x _⟩
  | addReg x _ | sub x _ | shr x _ | subn x _ | shl x _ => exact ⟨_, rfl, .of_setRegThenFlag s x _ _⟩
  | rnd x _ => exact ⟨_, rfl, .of_takeDraw_setReg s x _⟩
  | drw _ _ _ => exact ⟨_, rfl, .of_setFb_setFlag s _ _⟩
  | ldVxK _ => exact ⟨_, rfl, .of_setMode_setSnapshot s _ _⟩
  | ldDtVx _ => exact ⟨_, rfl, .of_setDelay s _⟩
  | ldStVx _ => exact ⟨_, rfl, .of_setSound s _⟩
  | ldI _ | addIVx _ | ldFVx _ => exact ⟨_, rfl, .of_setIndex s _⟩
  | ldBVx x => exact ⟨_, rfl, .of_writeBytes s (bcdDigits (s.reg x))⟩
  | ldMemVx x => exact ⟨_, rfl, .of_writeBytes_regsUpTo s x⟩
  | ldVxMem x => exact ⟨_, rfl, .of_setRegs s x _ (Memory.readBytes_length _ _ _).le⟩

theorem exec_frame {i : Instr} {s t : State} (h : exec i s = .next t) : Frame (footprint i s) s t :=
  of_answer (exec_answers_in_frame i s) h

/-- Every instruction answers an invariant state from an invariant state. -/
theorem exec_keeps_inv (i : Instr) {s : State} (h : s.Inv) : ∃ t, exec i s = .next t ∧ t.Inv := by
  cases i with
  | ret =>
    by_cases hsp : s.sp = 0
    · exact ⟨_, execRet_empty hsp, h.of_eq rfl rfl rfl rfl⟩
    · exact ⟨_, execRet_nonempty hsp, (h.pop hsp).setPc _⟩
  | call nnn =>
    by_cases hsp : s.sp = 16
    · exact ⟨_, execCall_full nnn hsp, h.of_eq rfl rfl rfl rfl⟩
    · exact ⟨_, execCall_free nnn hsp, (h.push hsp h.pc_lt).setPc _⟩
  | jp _ | jpV0 _ => exact ⟨_, rfl, h.setPc _⟩
  | seImm _ _ | sneImm _ _ | seReg _ _ | sneReg _ _ | skp _ | sknp _ => exact ⟨_, rfl, h.skipIf _⟩
  | ldBVx _ | ldMemVx _ => exact ⟨_, rfl, h.writeBytes _ _⟩
  | _ => exact ⟨_, rfl, h.of_eq rfl rfl rfl rfl⟩

/-- Only RET and CALL report, and they report one record at most. -/
theorem exec_diag {i : Instr} {s t : State} (h : exec i s = .next t) :
    t.diag = s.diag ∨ ∃ r, t.diag = s.diag ++ [r] := by
  cases i with
  | ret =>
    by_cases hsp : s.sp = 0
    · cases (execRet_empty hsp).symm.trans h
      exact .inr ⟨_, rfl⟩
    · cases (execRet_nonempty hsp).symm.trans h
      exact .inl rfl
  | call nnn =>
    by_cases hsp : s.sp = 16
    · cases (execCall_full nnn hsp).symm.trans h
      exact .inr ⟨_, rfl⟩
    · cases (execCall_free nnn hsp).symm.trans h
      exact .inl rfl
  | _ => exact .inl ((exec_frame h).diag rfl)

/-- Only RND takes a draw, and it takes one. -/
theorem exec_draws {i : Instr} {s t : State} (h : exec i s = .next t) :
    t.draws = s.draws ∨ (∃ x nn, i = .rnd x nn) ∧ t.draws = s.draws + 1 := by
  cases i with
  | rnd x nn =>
    cases h
    exact .inr ⟨⟨x, nn, rfl⟩, rfl⟩
  | _ => exact .inl ((exec_frame h).draws rfl)

/-! ## What a step does -/

/-- A waiting check answers a next state and writes only the waited-for register, the mode and the snapshot
(spec/45_keypad_timers.md R234). -/
theorem awaitKeyStep_answers_in_frame (t : Reg) (s : State) :
    ∃ u, awaitKeyStep t s = .next u ∧ Frame { regs := [t], wait := true } s u ∧
      u.pc = s.pc ∧ u.stack = s.stack ∧ u.mem = s.mem := by
  obtain ⟨k, _, h⟩ | ⟨_, h⟩ := awaitKeyStep_cases t s
  · exact ⟨_, h, { Frame.of_setReg s t _ with mode := (nomatch ·), snapshot := (nomatch ·) }, rfl, rfl, rfl⟩
  · exact ⟨_, h, { Frame.refl _ s with snapshot := (nomatch ·) }, rfl, rfl, rfl⟩

/-- Every step answers an invariant state from an invariant state. -/
theorem step_keeps_inv {s : State} (h : s.Inv) : ∃ t, step s = .next t ∧ t.Inv := by
  obtain ⟨r, _, hs⟩ | ⟨i, _, _, hs⟩ | ⟨op, _, _, hs⟩ := step_cases s
  · obtain ⟨u, hu, hf, hpc, hstack, hmem⟩ := awaitKeyStep_answers_in_frame r s
    exact ⟨u, hs.trans hu, h.of_eq hpc (hf.sp rfl) hstack hmem⟩
  · obtain ⟨t, ht, hinv⟩ := exec_keeps_inv i h.afterFetch
    exact ⟨t, hs.trans ht, hinv⟩
  · exact ⟨_, hs, h.afterFetch.of_eq rfl rfl rfl rfl⟩

/-! ## What a host event does -/

theorem countDown_toNat (b : Byte) : (countDown b).toNat = b.toNat - 1 := by
  unfold countDown
  split
  · exact Nat.mod_eq_of_lt (by omega)
  · omega

theorem imageFits_iff {bytes : List Byte} : imageFits bytes = true ↔ bytes.length ≤ 3584 := decide_eq_true_iff

theorem loadImage_of_fits {bytes : List Byte} (h : bytes.length ≤ 3584) (s : State) :
    loadImage bytes s = .next (s.setMem (s.mem.writeBytes Config.progBase bytes)) :=
  if_pos (imageFits_iff.2 h)

theorem loadImage_of_too_long {bytes : List Byte} (h : 3584 < bytes.length) (s : State) :
    loadImage bytes s = .refused (.imageTooLong bytes.length) :=
  if_neg (mt imageFits_iff.1 (not_le.2 h))

/-- Every event answers an invariant state from an invariant state, where the images loaded fit (R55). -/
theorem applyEvent_keeps_inv {e : Event} {s : State} (h : s.Inv)
    (hfit : ∀ bytes, e = .load bytes → bytes.length ≤ 3584) : ∃ t, applyEvent e s = .next t ∧ t.Inv := by
  cases e with
  | step => exact step_keeps_inv h
  | tick => exact ⟨_, rfl, h.of_eq rfl rfl rfl rfl⟩
  | reset => exact ⟨_, rfl, State.reset_inv.of_eq rfl rfl rfl rfl⟩
  | setKeys k => exact ⟨_, rfl, h.of_eq rfl rfl rfl rfl⟩
  | load bytes => exact ⟨_, loadImage_of_fits (hfit bytes rfl) s, h.writeBytes _ _⟩

theorem runEvents_cons {e : Event} {s t : State} (h : applyEvent e s = .next t) (es : List Event) :
    runEvents (e :: es) s = runEvents es t := by
  simp only [runEvents, h]

/-! ## Canonical memories -/

theorem Memory.wfFrom_cons {lo a : Nat} {b : Byte} {m : Memory} :
    Memory.wfFrom lo ((a, b) :: m) = true ↔ lo ≤ a ∧ a < 4096 ∧ b ≠ Memory.unlisted a ∧ m.wfFrom (a + 1) = true := by
  simp [Memory.wfFrom, and_assoc]

theorem Memory.read_cons_same (a : Nat) (b : Byte) (m : Memory) : Memory.read ((a, b) :: m) a = b := if_pos rfl

theorem Memory.read_cons_ne {a x : Nat} (b : Byte) (m : Memory) (h : x ≠ a) :
    Memory.read ((a, b) :: m) x = m.read x := if_neg h

/-- The first listed address is the first that differs from the reset content, so a canonical memory with the same reads
lists nothing before it. -/
theorem Memory.not_wfFrom_after_head {lo a : Nat} {b : Byte} {m m' : Memory} (h : Memory.wfFrom lo ((a, b) :: m) = true)
    (hread : ∀ x, x < 4096 → Memory.read ((a, b) :: m) x = m'.read x) : ¬ m'.wfFrom (a + 1) = true := by
  intro h'
  obtain ⟨_, ha, hb, _⟩ := Memory.wfFrom_cons.1 h
  have hsame := hread a ha
  rw [Memory.read_cons_same, Memory.read_of_wfFrom h' (Nat.lt_succ_self a)] at hsame
  exact hb hsame

/-- The tails of canonical memories with the same first address and the same reads read the same. -/
theorem Memory.tail_read_eq {a : Nat} {b b' : Byte} {m m' : Memory} (hm : m.wfFrom (a + 1) = true)
    (hm' : m'.wfFrom (a + 1) = true)
    (hread : ∀ x, x < 4096 → Memory.read ((a, b) :: m) x = Memory.read ((a, b') :: m') x) (x : Nat) (hx : x < 4096) :
    m.read x = m'.read x := by
  by_cases hxa : x = a
  · rw [Memory.read_of_wfFrom hm (by omega), Memory.read_of_wfFrom hm' (by omega)]
  · simpa only [Memory.read_cons_ne _ _ hxa] using hread x hx

theorem Memory.eq_of_read_eq {lo : Nat} {m m' : Memory} (hm : m.wfFrom lo = true) (hm' : m'.wfFrom lo = true)
    (hread : ∀ x, x < 4096 → m.read x = m'.read x) : m = m' := by
  induction m generalizing lo m' with
  | nil =>
    cases m' with
    | nil => rfl
    | cons c' m' => exact absurd rfl (Memory.not_wfFrom_after_head hm' fun x hx => (hread x hx).symm)
  | cons c m ih =>
    obtain ⟨a, b⟩ := c
    cases m' with
    | nil => exact absurd rfl (Memory.not_wfFrom_after_head hm hread)
    | cons c' m' =>
      obtain ⟨a', b'⟩ := c'
      obtain ⟨_, ha, hb, htail⟩ := Memory.wfFrom_cons.1 hm
      obtain ⟨_, ha', hb', htail'⟩ := Memory.wfFrom_cons.1 hm'
      rcases Nat.lt_trichotomy a a' with hlt | rfl | hlt
      · exact absurd (Memory.wfFrom_cons.2 ⟨hlt, ha', hb', htail'⟩) (Memory.not_wfFrom_after_head hm hread)
      · have hbb : b = b' := by simpa only [Memory.read_cons_same] using hread a ha
        rw [hbb, ih htail htail' (Memory.tail_read_eq htail htail' hread)]
      · exact absurd (Memory.wfFrom_cons.2 ⟨hlt, ha, hb, htail⟩)
          (Memory.not_wfFrom_after_head hm' fun x hx => (hread x hx).symm)

/-! ## The obligations -/

/-- Settles O12: the waiting check, the instructions and the report of an unknown word each keep the invariants. -/
theorem stepKeepsTheInvariants : Obligations.StepKeepsTheInvariants := by
  unfold Obligations.StepKeepsTheInvariants
  intro s t hinv hstep
  exact of_answer (step_keeps_inv hinv) hstep

/-- Settles O13, by induction on the list of events. -/
theorem everyRunOfEventsKeepsTheInvariants : Obligations.EveryRunOfEventsKeepsTheInvariants := by
  unfold Obligations.EveryRunOfEventsKeepsTheInvariants
  intro es
  induction es with
  | nil => exact fun s hinv _ => ⟨s, rfl, hinv⟩
  | cons e es ih =>
    intro s hinv hfit
    obtain ⟨t, ht, htinv⟩ := applyEvent_keeps_inv (e := e) hinv fun bytes he => hfit bytes (he ▸ List.mem_cons_self)
    rw [runEvents_cons ht]
    exact ih t htinv fun bytes hmem => hfit bytes (List.mem_cons_of_mem e hmem)

/-- Settles O14: each operation an instruction uses has its frame, and the footprint lists what the operation writes. -/
theorem noInstructionWritesOutsideItsFootprint : Obligations.NoInstructionWritesOutsideItsFootprint := by
  unfold Obligations.NoInstructionWritesOutsideItsFootprint
  intro i s t h
  exact exec_frame h

/-- Settles O15: a waiting check reports nothing, an instruction at most one record, an unknown word one. -/
theorem stepAppendsAtMostOneRecord : Obligations.StepAppendsAtMostOneRecord := by
  unfold Obligations.StepAppendsAtMostOneRecord
  intro s t h
  obtain ⟨r, _, hs⟩ | ⟨i, _, _, hs⟩ | ⟨op, _, _, hs⟩ := step_cases s
  · obtain ⟨hf, _⟩ := of_answer (awaitKeyStep_answers_in_frame r s) (hs.symm.trans h)
    exact .inl (hf.diag rfl)
  · exact exec_diag (s := s.afterFetch) (hs.symm.trans h)
  · cases hs.symm.trans h
    exact .inr ⟨_, rfl⟩

/-- Settles O17: neither a waiting check nor a report takes a draw, and of the instructions RND alone does. -/
theorem stepLeavesKeysAndTakesDrawsOnlyForRnd : Obligations.StepLeavesKeysAndTakesDrawsOnlyForRnd := by
  unfold Obligations.StepLeavesKeysAndTakesDrawsOnlyForRnd
  intro s t h
  obtain ⟨r, _, hs⟩ | ⟨i, hmode, hdec, hs⟩ | ⟨op, _, _, hs⟩ := step_cases s
  · obtain ⟨hf, _⟩ := of_answer (awaitKeyStep_answers_in_frame r s) (hs.symm.trans h)
    exact ⟨hf.keys, .inl (hf.draws rfl)⟩
  · have hexec : exec i s.afterFetch = .next t := hs.symm.trans h
    refine ⟨(exec_frame hexec).keys, ?_⟩
    obtain hsame | ⟨⟨x, nn, rfl⟩, hone⟩ := exec_draws hexec
    · exact .inl hsame
    · exact .inr ⟨⟨hmode, x, nn, hdec⟩, hone⟩
  · cases hs.symm.trans h
    exact ⟨rfl, .inl rfl⟩

/-- Settles O20, by induction on one of the two memories. -/
theorem canonicalMemoriesWithEqualReadsAreEqual : Obligations.CanonicalMemoriesWithEqualReadsAreEqual := by
  unfold Obligations.CanonicalMemoriesWithEqualReadsAreEqual
  intro m m' hm hm' hread
  exact Memory.eq_of_read_eq hm hm' hread

/-- Settles O57, by induction on the number of ticks. -/
theorem ticksHoldTheTimersAtZero : Obligations.TicksHoldTheTimersAtZero := by
  unfold Obligations.TicksHoldTheTimersAtZero
  intro k
  induction k with
  | zero => exact fun s => ⟨s, rfl, rfl, rfl, by simp [soundOn], rfl, Frame.refl _ s⟩
  | succ k ih =>
    intro s
    obtain ⟨t, hrun, hdt, hst, hsound, hpc, hframe⟩ := ih (tick s)
    rw [tick_dt, countDown_toNat] at hdt
    rw [tick_st, countDown_toNat] at hst hsound
    refine ⟨t, ?_, by omega, by omega, hsound.trans (by omega), hpc, (Frame.of_tick s).trans hframe⟩
    rw [List.replicate_succ, runEvents_cons rfl]
    exact hrun

/-- Settles O59: the image lies below 0x1000, so that no address of the store wraps. -/
theorem loadWritesTheImage : Obligations.LoadWritesTheImage := by
  unfold Obligations.LoadWritesTheImage
  intro bytes s hwf
  refine ⟨fun hfit => ?_, fun hlong => loadImage_of_too_long hlong s⟩
  have haddr : ∀ j < bytes.length, addrOf (0x200 + j) = 0x200 + j := fun j hj => addrOf_of_lt (by omega)
  refine ⟨_, loadImage_of_fits hfit s, fun j hj => ?_, Memory.wf_writeBytes bytes hwf _, rfl, ?_⟩
  · have hread := Memory.read_writeBytes bytes hwf 0x200 (by omega) hj
    rwa [haddr j hj] at hread
  · refine { Frame.refl _ s with bytes := fun a ha => ?_ }
    refine Memory.read_writeBytes_ne bytes s.mem 0x200 fun j hj heq => ha ?_
    exact List.mem_map.2 ⟨j, List.mem_range.2 hj, (heq.trans (haddr j hj)).symm⟩

/-- Settles O11: the pc is 0x200, the stack is empty and memory lists nothing. -/
theorem resetMeetsTheInvariants : Obligations.ResetMeetsTheInvariants := State.reset_inv

end Sys2Proof.Machine

/-!
PROOFS of the statements about the memory (spec/20_memory.md): the word at an address, the registers stored at I, and the
two values of MEM_OOB.
-/
namespace Sys2Proof.Machine

/-! ## Words in memory (R62, R63) -/

/-- The word at an address is big-endian. -/
theorem Memory.wordAt_toNat (m : Memory) (a : Nat) :
    (m.wordAt a).toNat = 256 * (m.read (addrOf a)).toNat + (m.read (addrOf (a + 1))).toNat :=
  wordOfBytes_toNat _ _

/-- Reducing the start of a run of addresses leaves the run where it was. -/
@[simp] theorem addrOf_addrOf_add (e k : Nat) : addrOf (addrOf e + k) = addrOf (e + k) := Nat.mod_add_mod _ _ _

/-- The run of addresses from `A(I)` up is the run of the accesses at I. -/
theorem State.addrOf_indexAddr_zero_add (s : State) (k : Nat) : addrOf (s.indexAddr 0 + k) = s.indexAddr k :=
  addrOf_addrOf_add _ _

/-- A store of V0 to Vx at I leaves Vr at `A(I + r)` (spec/43_index_memory.md R194). -/
theorem Memory.read_writeBytes_regsUpTo {s : State} (hwf : s.mem.wf = true) {x r : Reg} (hr : r ≤ x) :
    (s.mem.writeBytes s.i.toNat (s.regsUpTo x)).read (s.indexAddr r.val) = s.reg r := by
  have hlength := s.regsUpTo_length x
  have hlt : r.val < (s.regsUpTo x).length := hlength ▸ Nat.lt_succ_of_le hr
  calc (s.mem.writeBytes s.i.toNat (s.regsUpTo x)).read (s.indexAddr r.val)
      = (s.regsUpTo x)[r.val] := Memory.read_writeBytes _ hwf _ (by omega) hlt
    _ = (s.regsUpTo x).getD r.val 0 := (List.getD_eq_getElem _ _ hlt).symm
    _ = s.reg r := s.regsUpTo_getD x r hr 0

/-! ## The two values of MEM_OOB (R62) -/

/-- The accesses of a step all lie below 4096 when there are none or the last one does: the test of `guardRange`. -/
theorem accesses_lt_iff {e len : Nat} : (∀ k < len, e + k < 4096) ↔ len = 0 ∨ e + len ≤ 4096 := by
  constructor
  · intro hall
    cases len with
    | zero => exact .inl rfl
    | succ n => exact .inr (hall n (Nat.lt_succ_self n))
  · intro h k hk
    omega

theorem guardRange_fault_of_lt {e len : Nat} (h : ∀ k < len, e + k < 4096) (go : Result) :
    guardRange .fault e len go = go := if_pos (accesses_lt_iff.1 h)

theorem guardRange_fault_of_not_lt {e len : Nat} (h : ¬ ∀ k < len, e + k < 4096) (go : Result) :
    guardRange .fault e len go = .fault (.memoryOutOfRange (max e 4096)) := if_neg (mt accesses_lt_iff.2 h)

/-! ## The obligations -/

/-- Settles O19: the three rules of a write to a canonical memory. -/
theorem memoryReadsTheLastWrite : Obligations.MemoryReadsTheLastWrite := by
  unfold Obligations.MemoryReadsTheLastWrite
  intro m a b hwf ha
  exact ⟨Memory.wf_write hwf ha b, Memory.read_write_same hwf a b, fun _ hne => m.read_write_ne b hne⟩

/-- Settles O21: the fetch reads `A(I)` and `A(I + 1)`, where the store left V0 and V1; the store keeps the pc. -/
theorem storedWordIsFetchedNext : Obligations.StoredWordIsFetchedNext := by
  unfold Obligations.StoredWordIsFetchedNext
  intro s x hwf hx _ hpc
  refine ⟨s.setMem (s.mem.writeBytes s.i.toNat (s.regsUpTo x)), rfl, ?_⟩
  have hhigh : addrOf s.pc.toNat = s.indexAddr 0 := hpc ▸ s.addrOf_indexAddr_zero_add 0
  have hlow : addrOf (s.pc.toNat + 1) = s.indexAddr 1 := hpc ▸ s.addrOf_indexAddr_zero_add 1
  have hV0 := Memory.read_writeBytes_regsUpTo hwf (Fin.zero_le x)
  have hV1 := Memory.read_writeBytes_regsUpTo hwf (r := 1) hx
  rw [State.fetchWord, Memory.wordAt_toNat, State.setMem_mem, State.setMem_pc, hhigh, hlow]
  exact congrArg₂ (fun b c : Byte => 256 * b.toNat + c.toNat) hV0 hV1

/-- Settles O8: the fetch reads the word at the pc. -/
theorem fetchedWordIsBigEndian : Obligations.FetchedWordIsBigEndian := by
  unfold Obligations.FetchedWordIsBigEndian
  intro s
  exact Memory.wordAt_toNat s.mem s.pc.toNat

/-- Settles O22: `wrap` never stops a step, and `fault` stops it exactly when not all of its accesses lie below 4096. -/
theorem accessPastTheEndFollowsThePolicy : Obligations.AccessPastTheEndFollowsThePolicy := by
  unfold Obligations.AccessPastTheEndFollowsThePolicy
  intro e len go
  refine ⟨rfl, fun hall => guardRange_fault_of_lt hall go, ?_⟩
  rintro ⟨k, hk, hpast⟩
  exact ⟨_, guardRange_fault_of_not_lt (fun hall => absurd (hall k hk) (not_lt.2 hpast)) go⟩

end Sys2Proof.Machine

/-!
PROOFS of the statements about the encoding (spec/30_encoding.md). Decoding undoes encoding by the fields of a format.
The other direction goes through the word that a reading stands for, family by family of d1. A row of the opcode table
is the set of the words of one instruction.
-/
namespace Sys2Proof

open Sys2Proof.Machine

/-! ## Decoding the word of an instruction -/

theorem decode_encode (i : Instr) : decode (encode i) = .known i := by
  cases i with
  | cls | ret => rfl
  | jp | call | ldI | jpV0 | seImm | sneImm | ldImm | addImm | rnd | drw => simp [encode, decode]
  | seReg => simp [encode, decode, decodeFive]
  | sneReg => simp [encode, decode, decodeNine]
  | ldReg | or | and | xor | addReg | sub | shr | subn | shl => simp [encode, decode, decodeEight]
  | skp | sknp => simp [encode, decode, decodeE]
  | ldVxDt | ldVxK | ldDtVx | ldStVx | addIVx | ldFVx | ldBVx | ldMemVx | ldVxMem => simp [encode, decode, decodeF]

theorem decodeBytes_encodeBytes_append (i : Instr) (rest : List Byte) :
    decodeBytes (encodeBytes i ++ rest) = some (.known i, rest) := by
  simp [encodeBytes, decodeBytes, decode_encode]

/-! ## A word with known fixed fields is a word of the format -/

theorem formatA_of_opD1 {op : Word} {d : Nibble} (h : opD1 op = d) : formatA d (opNNN op) = op :=
  h ▸ formatA_fields op

theorem formatXNN_of_opD1 {op : Word} {d : Nibble} (h : opD1 op = d) : formatXNN d (opX op) (opNN op) = op :=
  h ▸ formatXNN_fields op

theorem formatXNN_of_opD1_opNN {op : Word} {d : Nibble} {low : Byte} (h : opD1 op = d) (hlow : opNN op = low) :
    formatXNN d (opX op) low = op :=
  hlow ▸ formatXNN_of_opD1 h

theorem formatXYN_of_opD1 {op : Word} {d : Nibble} (h : opD1 op = d) :
    formatXYN d (opX op) (opY op) (opN op) = op :=
  h ▸ formatXYN_fields op

theorem formatXYN_of_opD1_opN {op : Word} {d n : Nibble} (h : opD1 op = d) (hn : opN op = n) :
    formatXYN d (opX op) (opY op) n = op :=
  hn ▸ formatXYN_of_opD1 h

/-! ## The families of d1 -/

theorem nibble_eq_F_of_not_mem {d : Nibble}
    (h : d ∉ [0x0#4, 0x1#4, 0x2#4, 0x3#4, 0x4#4, 0x5#4, 0x6#4, 0x7#4, 0x8#4, 0x9#4, 0xA#4, 0xB#4, 0xC#4, 0xD#4,
      0xE#4]) : d = 0xF := by
  revert d
  decide

/-- Six values of d1 have a decoder of their own; a word with any other d1 is the word of an instruction (R93). -/
theorem decode_cases (op : Word) :
    ((∃ i, decode op = .known i ∧ encode i = op) ∧ opD1 op ∉ [0x0#4, 0x5#4, 0x8#4, 0x9#4, 0xE#4, 0xF#4]) ∨
    (opD1 op = 0x0 ∧ decode op = decodeZero op) ∨ (opD1 op = 0x5 ∧ decode op = decodeFive op) ∨
    (opD1 op = 0x8 ∧ decode op = decodeEight op) ∨ (opD1 op = 0x9 ∧ decode op = decodeNine op) ∨
    (opD1 op = 0xE ∧ decode op = decodeE op) ∨ (opD1 op = 0xF ∧ decode op = decodeF op) := by
  unfold decode
  split
  case h_1 h | h_6 h | h_9 h | h_10 h | h_15 h => simp [h]
  case h_2 h | h_3 h | h_11 h | h_12 h => exact .inl ⟨⟨_, rfl, formatA_of_opD1 h⟩, by simp [h]⟩
  case h_4 h | h_5 h | h_7 h | h_8 h | h_13 h => exact .inl ⟨⟨_, rfl, formatXNN_of_opD1 h⟩, by simp [h]⟩
  case h_14 h => exact .inl ⟨⟨_, rfl, formatXYN_of_opD1 h⟩, by simp [h]⟩
  case h_16 =>
    have h : opD1 op = 0xF := nibble_eq_F_of_not_mem (by simp_all)
    simp [h]

/-! ## The word of a reading -/

/-- The word that a reading stands for: an instruction's own word, or the unknown word that is reported. -/
def Decoded.word : Decoded → Word
  | .known i => encode i
  | .unknownOpcode op => op

theorem decodeZero_word (op : Word) : (decodeZero op).word = op := by
  unfold decodeZero
  split
  case isTrue h => exact h.symm
  case isFalse =>
    split
    case isTrue h => exact h.symm
    case isFalse => rfl

theorem decodeFive_word {op : Word} (h : opD1 op = 0x5) : (decodeFive op).word = op := by
  unfold decodeFive
  split
  case h_1 hn => exact formatXYN_of_opD1_opN h hn
  case h_2 => rfl

theorem decodeEight_word {op : Word} (h : opD1 op = 0x8) : (decodeEight op).word = op := by
  unfold decodeEight
  split
  case h_10 => rfl
  all_goals exact formatXYN_of_opD1_opN h ‹_›

theorem decodeNine_word {op : Word} (h : opD1 op = 0x9) : (decodeNine op).word = op := by
  unfold decodeNine
  split
  case h_1 hn => exact formatXYN_of_opD1_opN h hn
  case h_2 => rfl

theorem decodeE_word {op : Word} (h : opD1 op = 0xE) : (decodeE op).word = op := by
  unfold decodeE
  split
  case h_3 => rfl
  all_goals exact formatXNN_of_opD1_opNN h ‹_›

theorem decodeF_word {op : Word} (h : opD1 op = 0xF) : (decodeF op).word = op := by
  unfold decodeF
  split
  case h_10 => rfl
  all_goals exact formatXNN_of_opD1_opNN h ‹_›

/-- No bit of a word is lost: a reading stands for the word it was read from. -/
theorem decode_word (op : Word) : (decode op).word = op := by
  obtain ⟨⟨i, hd, hword⟩, _⟩ | ⟨_, hd⟩ | ⟨h, hd⟩ | ⟨h, hd⟩ | ⟨h, hd⟩ | ⟨h, hd⟩ | ⟨h, hd⟩ := decode_cases op <;> rw [hd]
  · exact hword
  · exact decodeZero_word op
  · exact decodeFive_word h
  · exact decodeEight_word h
  · exact decodeNine_word h
  · exact decodeE_word h
  · exact decodeF_word h

theorem encode_of_decode {op : Word} {i : Instr} (h : decode op = .known i) : encode i = op := by
  simpa only [h, Decoded.word] using decode_word op

theorem eq_of_decode_unknown {op op' : Word} (h : decode op = .unknownOpcode op') : op' = op := by
  simpa only [h, Decoded.word] using decode_word op

/-! ## The unknown words -/

/-- The word is answered as an unknown opcode. -/
def Decoded.IsUnknown (d : Decoded) : Prop := ∃ op, d = .unknownOpcode op

@[simp] theorem Decoded.not_isUnknown_known (i : Instr) : ¬ (Decoded.known i).IsUnknown := by
  rintro ⟨_, ⟨⟩⟩

@[simp] theorem Decoded.isUnknown_unknownOpcode (op : Word) : (Decoded.unknownOpcode op).IsUnknown := ⟨op, rfl⟩

theorem decodeZero_isUnknown (op : Word) : (decodeZero op).IsUnknown ↔ op ≠ 0x00E0 ∧ op ≠ 0x00EE := by
  unfold decodeZero
  split
  case isTrue h => simp [h]
  case isFalse => split <;> simp_all

theorem decodeFive_isUnknown (op : Word) : (decodeFive op).IsUnknown ↔ opN op ≠ 0x0 := by
  unfold decodeFive
  split <;> simp_all

theorem nibble_mem_unused_of_not_mem_used {n : Nibble}
    (h : n ∉ [0x0#4, 0x1#4, 0x2#4, 0x3#4, 0x4#4, 0x5#4, 0x6#4, 0x7#4, 0xE#4]) :
    n ∈ [0x8#4, 0x9#4, 0xA#4, 0xB#4, 0xC#4, 0xD#4, 0xF#4] := by
  revert n
  decide

theorem decodeEight_isUnknown (op : Word) :
    (decodeEight op).IsUnknown ↔ opN op ∈ [0x8#4, 0x9#4, 0xA#4, 0xB#4, 0xC#4, 0xD#4, 0xF#4] := by
  unfold decodeEight
  split
  case h_10 => simpa using nibble_mem_unused_of_not_mem_used (n := opN op) (by simp_all)
  all_goals simp [*]

theorem decodeNine_isUnknown (op : Word) : (decodeNine op).IsUnknown ↔ opN op ≠ 0x0 := by
  unfold decodeNine
  split <;> simp_all

theorem decodeE_isUnknown (op : Word) : (decodeE op).IsUnknown ↔ opNN op ∉ [0x9E#8, 0xA1#8] := by
  unfold decodeE
  split <;> simp_all

theorem decodeF_isUnknown (op : Word) :
    (decodeF op).IsUnknown ↔
      opNN op ∉ [0x07#8, 0x0A#8, 0x15#8, 0x18#8, 0x1E#8, 0x29#8, 0x33#8, 0x55#8, 0x65#8] := by
  unfold decodeF
  split <;> simp_all

/-! ## The rows of the opcode table -/

theorem encodingRow (i : Instr) : Laws.EncodingRow.Statement i :=
  match i with
  | .cls => Laws.EncodingRow.cls
  | .ret => Laws.EncodingRow.ret
  | .jp nnn => Laws.EncodingRow.jp nnn
  | .call nnn => Laws.EncodingRow.call nnn
  | .seImm x nn => Laws.EncodingRow.seImm x nn
  | .sneImm x nn => Laws.EncodingRow.sneImm x nn
  | .seReg x y => Laws.EncodingRow.seReg x y
  | .ldImm x nn => Laws.EncodingRow.ldImm x nn
  | .addImm x nn => Laws.EncodingRow.addImm x nn
  | .ldReg x y => Laws.EncodingRow.ldReg x y
  | .or x y => Laws.EncodingRow.or x y
  | .and x y => Laws.EncodingRow.and x y
  | .xor x y => Laws.EncodingRow.xor x y
  | .addReg x y => Laws.EncodingRow.addReg x y
  | .sub x y => Laws.EncodingRow.sub x y
  | .shr x y => Laws.EncodingRow.shr x y
  | .subn x y => Laws.EncodingRow.subn x y
  | .shl x y => Laws.EncodingRow.shl x y
  | .sneReg x y => Laws.EncodingRow.sneReg x y
  | .ldI nnn => Laws.EncodingRow.ldI nnn
  | .jpV0 nnn => Laws.EncodingRow.jpV0 nnn
  | .rnd x nn => Laws.EncodingRow.rnd x nn
  | .drw x y n => Laws.EncodingRow.drw x y n
  | .skp x => Laws.EncodingRow.skp x
  | .sknp x => Laws.EncodingRow.sknp x
  | .ldVxDt x => Laws.EncodingRow.ldVxDt x
  | .ldVxK x => Laws.EncodingRow.ldVxK x
  | .ldDtVx x => Laws.EncodingRow.ldDtVx x
  | .ldStVx x => Laws.EncodingRow.ldStVx x
  | .addIVx x => Laws.EncodingRow.addIVx x
  | .ldFVx x => Laws.EncodingRow.ldFVx x
  | .ldBVx x => Laws.EncodingRow.ldBVx x
  | .ldMemVx x => Laws.EncodingRow.ldMemVx x
  | .ldVxMem x => Laws.EncodingRow.ldVxMem x

theorem Pattern.accepts_iff {p : Pattern} {op : Word} : p.accepts op = true ↔ op &&& p.mask = p.value := beq_iff_eq

/-- What a statement about a single instruction says of its encoding. -/
theorem encoded (i : Instr) : Encoded i i.pattern.mask i.pattern.value :=
  have ⟨hmem, haccepts⟩ := encodingRow i
  ⟨rfl, hmem, Pattern.accepts_iff.1 haccepts, decode_encode i⟩

section
variable {p : Pattern} {op : Word} (h : p.accepts op = true)
include h

theorem eq_value_of_accepts (hm : p.mask = 0xFFFF) : op = p.value := by
  rw [← Pattern.accepts_iff.1 h, hm]
  exact BitVec.and_allOnes.symm

theorem opD1_of_accepts (hm : opD1 p.mask = 0xF) : opD1 op = opD1 p.value := by
  rw [← Pattern.accepts_iff.1 h, opD1_and, hm]
  exact BitVec.and_allOnes.symm

theorem opN_of_accepts (hm : opN p.mask = 0xF) : opN op = opN p.value := by
  rw [← Pattern.accepts_iff.1 h, opN_and, hm]
  exact BitVec.and_allOnes.symm

theorem opNN_of_accepts (hm : opNN p.mask = 0xFF) : opNN op = opNN p.value := by
  rw [← Pattern.accepts_iff.1 h, opNN_and, hm]
  exact BitVec.and_allOnes.symm

theorem formatA_of_accepts {d : Nibble} (hm : opD1 p.mask = 0xF) (hd : opD1 p.value = d) : formatA d (opNNN op) = op :=
  formatA_of_opD1 ((opD1_of_accepts h hm).trans hd)

theorem formatXNN_of_accepts {d : Nibble} (hm : opD1 p.mask = 0xF) (hd : opD1 p.value = d) :
    formatXNN d (opX op) (opNN op) = op :=
  formatXNN_of_opD1 ((opD1_of_accepts h hm).trans hd)

theorem formatX_of_accepts {d : Nibble} {low : Byte} (hm : opD1 p.mask = 0xF) (hd : opD1 p.value = d)
    (hmlow : opNN p.mask = 0xFF) (hlow : opNN p.value = low) : formatXNN d (opX op) low = op :=
  formatXNN_of_opD1_opNN ((opD1_of_accepts h hm).trans hd) ((opNN_of_accepts h hmlow).trans hlow)

theorem formatXYN_of_accepts {d : Nibble} (hm : opD1 p.mask = 0xF) (hd : opD1 p.value = d) :
    formatXYN d (opX op) (opY op) (opN op) = op :=
  formatXYN_of_opD1 ((opD1_of_accepts h hm).trans hd)

theorem formatXY_of_accepts {d n : Nibble} (hm : opD1 p.mask = 0xF) (hd : opD1 p.value = d) (hmn : opN p.mask = 0xF)
    (hn : opN p.value = n) : formatXYN d (opX op) (opY op) n = op :=
  formatXYN_of_opD1_opN ((opD1_of_accepts h hm).trans hd) ((opN_of_accepts h hmn).trans hn)

end

/-- Every word of the row is the word of an instruction of the row. -/
def Pattern.Covered (p : Pattern) : Prop := ∀ op : Word, p.accepts op = true → ∃ i, encode i = op ∧ i.pattern = p

theorem covered_of_mem_patternsLow : ∀ p ∈ patternsLow, p.Covered := by
  simp only [patternsLow, List.forall_mem_cons]
  exact ⟨fun _ h => ⟨.cls, (eq_value_of_accepts h rfl).symm, rfl⟩,
    fun _ h => ⟨.ret, (eq_value_of_accepts h rfl).symm, rfl⟩,
    fun _ h => ⟨.jp _, formatA_of_accepts h rfl rfl, rfl⟩,
    fun _ h => ⟨.call _, formatA_of_accepts h rfl rfl, rfl⟩,
    fun _ h => ⟨.seImm _ _, formatXNN_of_accepts h rfl rfl, rfl⟩,
    fun _ h => ⟨.sneImm _ _, formatXNN_of_accepts h rfl rfl, rfl⟩,
    fun _ h => ⟨.seReg _ _, formatXY_of_accepts h rfl rfl rfl rfl, rfl⟩,
    fun _ h => ⟨.ldImm _ _, formatXNN_of_accepts h rfl rfl, rfl⟩,
    fun _ h => ⟨.addImm _ _, formatXNN_of_accepts h rfl rfl, rfl⟩,
    List.forall_mem_nil _⟩

theorem covered_of_mem_patternsMid : ∀ p ∈ patternsMid, p.Covered := by
  simp only [patternsMid, List.forall_mem_cons]
  exact ⟨fun _ h => ⟨.ldReg _ _, formatXY_of_accepts h rfl rfl rfl rfl, rfl⟩,
    fun _ h => ⟨.or _ _, formatXY_of_accepts h rfl rfl rfl rfl, rfl⟩,
    fun _ h => ⟨.and _ _, formatXY_of_accepts h rfl rfl rfl rfl, rfl⟩,
    fun _ h => ⟨.xor _ _, formatXY_of_accepts h rfl rfl rfl rfl, rfl⟩,
    fun _ h => ⟨.addReg _ _, formatXY_of_accepts h rfl rfl rfl rfl, rfl⟩,
    fun _ h => ⟨.sub _ _, formatXY_of_accepts h rfl rfl rfl rfl, rfl⟩,
    fun _ h => ⟨.shr _ _, formatXY_of_accepts h rfl rfl rfl rfl, rfl⟩,
    fun _ h => ⟨.subn _ _, formatXY_of_accepts h rfl rfl rfl rfl, rfl⟩,
    fun _ h => ⟨.shl _ _, formatXY_of_accepts h rfl rfl rfl rfl, rfl⟩,
    fun _ h => ⟨.sneReg _ _, formatXY_of_accepts h rfl rfl rfl rfl, rfl⟩,
    fun _ h => ⟨.ldI _, formatA_of_accepts h rfl rfl, rfl⟩,
    fun _ h => ⟨.jpV0 _, formatA_of_accepts h rfl rfl, rfl⟩,
    fun _ h => ⟨.rnd _ _, formatXNN_of_accepts h rfl rfl, rfl⟩,
    fun _ h => ⟨.drw _ _ _, formatXYN_of_accepts h rfl rfl, rfl⟩,
    List.forall_mem_nil _⟩

theorem covered_of_mem_patternsHigh : ∀ p ∈ patternsHigh, p.Covered := by
  simp only [patternsHigh, List.forall_mem_cons]
  exact ⟨fun _ h => ⟨.skp _, formatX_of_accepts h rfl rfl rfl rfl, rfl⟩,
    fun _ h => ⟨.sknp _, formatX_of_accepts h rfl rfl rfl rfl, rfl⟩,
    fun _ h => ⟨.ldVxDt _, formatX_of_accepts h rfl rfl rfl rfl, rfl⟩,
    fun _ h => ⟨.ldVxK _, formatX_of_accepts h rfl rfl rfl rfl, rfl⟩,
    fun _ h => ⟨.ldDtVx _, formatX_of_accepts h rfl rfl rfl rfl, rfl⟩,
    fun _ h => ⟨.ldStVx _, formatX_of_accepts h rfl rfl rfl rfl, rfl⟩,
    fun _ h => ⟨.addIVx _, formatX_of_accepts h rfl rfl rfl rfl, rfl⟩,
    fun _ h => ⟨.ldFVx _, formatX_of_accepts h rfl rfl rfl rfl, rfl⟩,
    fun _ h => ⟨.ldBVx _, formatX_of_accepts h rfl rfl rfl rfl, rfl⟩,
    fun _ h => ⟨.ldMemVx _, formatX_of_accepts h rfl rfl rfl rfl, rfl⟩,
    fun _ h => ⟨.ldVxMem _, formatX_of_accepts h rfl rfl rfl rfl, rfl⟩,
    List.forall_mem_nil _⟩

theorem exists_decode_of_accepts {p : Pattern} {op : Word} (hp : p ∈ patterns) (h : p.accepts op = true) :
    ∃ i, decode op = .known i ∧ i.pattern = p := by
  have hcovered : p.Covered := by
    obtain (hlow | hmid) | hhigh := by simpa only [patterns, List.mem_append] using hp
    · exact covered_of_mem_patternsLow p hlow
    · exact covered_of_mem_patternsMid p hmid
    · exact covered_of_mem_patternsHigh p hhigh
  obtain ⟨i, rfl, hrow⟩ := hcovered op h
  exact ⟨i, decode_encode i, hrow⟩

/-! ## The obligations -/

/-- Settles O1: the fields of an encoded word are the operands, and the decoder reads them. -/
theorem decodeOfEncodeIsTheInstruction : Obligations.DecodeOfEncodeIsTheInstruction := by
  unfold Obligations.DecodeOfEncodeIsTheInstruction
  intro i
  exact ⟨decode_encode i, decodeBytes_encodeBytes_append i⟩

/-- Settles O2: a reading stands for the word it was read from. -/
theorem encodeOfDecodeIsTheWord : Obligations.EncodeOfDecodeIsTheWord := by
  unfold Obligations.EncodeOfDecodeIsTheWord
  intro op i h
  exact encode_of_decode h

/-- Settles O3: two rows with a word in common are both the row of the one instruction that the word decodes to. -/
theorem opcodeRowsAreDisjoint : Obligations.OpcodeRowsAreDisjoint := by
  unfold Obligations.OpcodeRowsAreDisjoint
  intro op p q hp hq hpop hqop
  obtain ⟨i, hi, rfl⟩ := exists_decode_of_accepts hp hpop
  obtain ⟨j, hj, rfl⟩ := exists_decode_of_accepts hq hqop
  cases hi.symm.trans hj
  rfl

/-- Settles O4: the word of an instruction lies in its row, and a row holds no other words. -/
theorem decodeFollowsTheOpcodeTable : Obligations.DecodeFollowsTheOpcodeTable := by
  unfold Obligations.DecodeFollowsTheOpcodeTable
  refine fun op => ⟨fun i h => ?_, fun p hp h => exists_decode_of_accepts hp h⟩
  obtain rfl := encode_of_decode h
  obtain ⟨_, hmem, hmasked, _⟩ := encoded i
  exact ⟨hmem, Pattern.accepts_iff.2 hmasked⟩

/-- Settles O5, by the families of d1. -/
theorem unknownWordsAreTheClassesOfTheTable : Obligations.UnknownWordsAreTheClassesOfTheTable := by
  unfold Obligations.UnknownWordsAreTheClassesOfTheTable
  refine fun op => ⟨?_, fun _ h => eq_of_decode_unknown h⟩
  change (decode op).IsUnknown ↔ _
  obtain ⟨⟨i, hd, _⟩, h⟩ | ⟨h, hd⟩ | ⟨h, hd⟩ | ⟨h, hd⟩ | ⟨h, hd⟩ | ⟨h, hd⟩ | ⟨h, hd⟩ := decode_cases op <;> rw [hd]
  · simp_all
  · simp [h, decodeZero_isUnknown]
  · simp [h, decodeFive_isUnknown]
  · simp [h, decodeEight_isUnknown]
  · simp [h, decodeNine_isUnknown]
  · simp [h, decodeE_isUnknown]
  · simp [h, decodeF_isUnknown]

/-- Settles O6, by running the decoder on each word. -/
theorem wordsOfTheTableDecode : Obligations.WordsOfTheTableDecode := by
  unfold Obligations.WordsOfTheTableDecode
  decide

end Sys2Proof

/-!
PROOFS of the statements about the step cycle (spec/40_step_cycle.md): a fetched instruction is run on the state after
fetch, and every instruction and every step answers a next state.
-/
namespace Sys2Proof.Machine

/-! ## A step in the mode Running (R120, R121, R123) -/

theorem State.afterFetch_eq (s : State) :
    s.afterFetch = { s with pc := BitVec.ofNat 16 ((s.pc.toNat + 2) % 4096) } := rfl

theorem step_known {s : State} {i : Instr} (hmode : s.mode = .running) (hdec : decode s.fetchWord = .known i) :
    step s = exec i s.afterFetch :=
  (step_running hmode).trans (execute_known hdec s.afterFetch)

/-! ## Completion (R125; spec/60_exceptions.md R250) -/

theorem exec_completes (i : Instr) (s : State) : ∃ t, exec i s = .next t :=
  (exec_answers_in_frame i s).imp fun _ => And.left

theorem awaitKeyStep_completes (r : Reg) (s : State) : ∃ t, awaitKeyStep r s = .next t :=
  (awaitKeyStep_answers_in_frame r s).imp fun _ => And.left

theorem step_completes (s : State) : ∃ t, step s = .next t := by
  obtain ⟨r, _, hs⟩ | ⟨i, _, _, hs⟩ | ⟨op, _, _, hs⟩ := step_cases s <;> rw [hs]
  · exact awaitKeyStep_completes r s
  · exact exec_completes i s.afterFetch
  · exact ⟨s.afterFetch.raise .unknownOpcode op, rfl⟩

/-! ## The obligations -/

/-- Settles O10: an instruction completes by the case split over its constructors; a step is a waiting check, an
instruction or the report of an unknown word, and each of the three completes. -/
theorem everyStepCompletes : Obligations.EveryStepCompletes := by
  unfold Obligations.EveryStepCompletes
  exact ⟨exec_completes, step_completes⟩

/-- Settles O7: the default MEM_OOB lets the fetch go on, and the state after fetch is the one of the statement. -/
theorem stepRunsTheDecodedInstruction : Obligations.StepRunsTheDecodedInstruction := by
  unfold Obligations.StepRunsTheDecodedInstruction
  intro s i hmode hdec
  rw [← s.afterFetch_eq]
  exact step_known hmode hdec

end Sys2Proof.Machine

/-!
PROOFS of the statements about control flow (spec/41_control_flow.md): the pc after a jump, the two outcomes of a skip, what
a CALL pushes and a RET pops.
-/
namespace Sys2Proof.Machine

/-! ## Jump targets (R141; spec/10_state.md R23) -/

/-- A 12-bit target is below 4096, so that a write of it to the pc reduces nothing. -/
theorem State.setPc_imm12 (s : State) (nnn : Imm12) : s.setPc nnn.toNat = { s with pc := nnn.setWidth 16 } := by
  have hlt : nnn.toNat % Config.memSize = nnn.toNat := Nat.mod_eq_of_lt nnn.isLt
  rw [State.setPc, hlt, BitVec.ofNat_toNat]

theorem State.setPc_imm12_pc_toNat (s : State) (nnn : Imm12) : (s.setPc nnn.toNat).pc.toNat = nnn.toNat :=
  (s.setPc_pc_toNat _).trans (Nat.mod_eq_of_lt nnn.isLt)

theorem State.setPc_pc_of_lt (s : State) {w : Word} (h : w.toNat < 4096) : (s.setPc w.toNat).pc = w :=
  BitVec.eq_of_toNat_eq ((s.setPc_pc_toNat _).trans (Nat.mod_eq_of_lt h))

/-! ## The two outcomes of a skip (R143 to R146; spec/40_step_cycle.md R124) -/

theorem State.skipIf_true (s : State) :
    s.skipIf true = { s with pc := BitVec.ofNat 16 ((s.pc.toNat + 2) % 4096) } := rfl

theorem State.skipIf_false (s : State) : s.skipIf false = s := rfl

theorem exec_seImm (x : Reg) (nn : Byte) (s : State) :
    exec (.seImm x nn) s = .next (s.skipIf (s.reg x == nn)) := rfl

theorem exec_sneImm (x : Reg) (nn : Byte) (s : State) :
    exec (.sneImm x nn) s = .next (s.skipIf (s.reg x != nn)) := rfl

theorem exec_seReg (x y : Reg) (s : State) :
    exec (.seReg x y) s = .next (s.skipIf (s.reg x == s.reg y)) := rfl

theorem exec_sneReg (x y : Reg) (s : State) :
    exec (.sneReg x y) s = .next (s.skipIf (s.reg x != s.reg y)) := rfl

/-- Equal bytes: the skip on equality is taken, the skip on difference is not. -/
theorem State.skips_of_eq (s : State) {p q : Byte} (h : p = q) :
    (.next (s.skipIf (p == q)) : Result) = .next (s.skipIf true) ∧
      (.next (s.skipIf (p != q)) : Result) = .next s := by
  rw [beq_iff_eq.2 h, bne_eq_false_iff_eq.2 h, s.skipIf_false]
  exact ⟨rfl, rfl⟩

/-- Different bytes: the skip on difference is taken, the skip on equality is not. -/
theorem State.skips_of_ne (s : State) {p q : Byte} (h : p ≠ q) :
    (.next (s.skipIf (p == q)) : Result) = .next s ∧
      (.next (s.skipIf (p != q)) : Result) = .next (s.skipIf true) := by
  rw [beq_eq_false_iff_ne.2 h, bne_iff_ne.2 h, s.skipIf_false]
  exact ⟨rfl, rfl⟩

/-! ## The stack pointer (spec/10_state.md R25) -/

theorem State.push_sp_toNat {s : State} (h : s.sp.toNat < 16) (w : Word) : (s.push w).sp.toNat = s.sp.toNat + 1 := by
  simp only [State.push_sp]
  bv_omega

theorem State.pop_sp_toNat {s : State} (h : s.sp.toNat ≠ 0) : s.pop.sp.toNat = s.sp.toNat - 1 := by
  simp only [State.pop_sp]
  bv_omega

/-! ## CALL and RET on the stack (R140, R142) -/

/-- A CALL on a stack that is not full pushes the post-fetch pc and jumps. -/
theorem exec_call_pushes (nnn : Imm12) {s : State} (h : s.sp.toNat < 16) :
    ∃ t, exec (.call nnn) s = .next t ∧ t.pc.toNat = nnn.toNat ∧ t.sp.toNat = s.sp.toNat + 1 ∧
      t.slot s.sp.toNat = s.pc ∧ Frame { sp := true, slots := [s.sp.toNat] } s t := by
  have hfree : s.sp ≠ 16 := fun hfull => absurd h (by simp [hfull])
  exact ⟨_, execCall_free nnn hfree, State.setPc_imm12_pc_toNat _ nnn, State.push_sp_toNat h s.pc,
    s.slot_push_same s.pc h, (Frame.of_push s s.pc).setPc _⟩

/-- A RET on a stack that is not empty pops a return address that is a pc value. -/
theorem exec_ret_pops {s : State} (h : s.sp.toNat ≠ 0) (hslot : (s.slot (s.sp.toNat - 1)).toNat < 4096) :
    ∃ t, exec .ret s = .next t ∧ t.sp.toNat = s.sp.toNat - 1 ∧ t.pc = s.slot (s.sp.toNat - 1) ∧
      Frame { sp := true } s t := by
  have hnonempty : s.sp ≠ 0 := fun hempty => h (by simp [hempty])
  have hpop := State.pop_sp_toNat h
  refine ⟨_, execRet_nonempty hnonempty, hpop, ?_, (Frame.of_pop s).setPc _⟩
  rw [hpop]
  exact s.pop.setPc_pc_of_lt hslot

/-- Memories with the same bytes hold the same words. -/
theorem Memory.wordAt_congr {m m' : Memory} (h : ∀ a, m'.read a = m.read a) (a : Nat) : m'.wordAt a = m.wordAt a := by
  simp only [Memory.wordAt, h]

/-! ## The obligations -/

/-- Settles O31: the CALL leaves the post-fetch pc in the slot that the RET pops, and stores nothing, so that the RET is
what the second step fetches. -/
theorem callThenRetComesBack : Obligations.CallThenRetComesBack := by
  unfold Obligations.CallThenRetComesBack
  intro s nnn hmode hlt hcall hret
  obtain ⟨t, ht, htpc, htsp, htslot, hst⟩ := exec_call_pushes nnn (s := s.afterFetch) hlt
  rw [State.afterFetch_sp] at htsp htslot hst
  have htop : t.afterFetch.slot (t.afterFetch.sp.toNat - 1) = s.afterFetch.pc := by
    rw [State.afterFetch_sp, htsp]
    exact htslot
  have hfetch : t.fetchWord = s.mem.wordAt nnn.toNat := by
    rw [State.fetchWord, htpc]
    exact Memory.wordAt_congr (fun a => hst.bytes a List.not_mem_nil) _
  obtain ⟨u, hu, husp, hupc, htu⟩ := exec_ret_pops (s := t.afterFetch) (by rw [State.afterFetch_sp]; omega)
    (htop ▸ s.setPc_pc_lt _)
  have hspback : u.sp = s.sp := by
    apply BitVec.eq_of_toNat_eq
    rw [husp, State.afterFetch_sp, htsp, Nat.add_sub_cancel]
  have hpcback : u.pc = s.afterFetch.pc := hupc.trans htop
  have hframe : Frame { sp := true, slots := [s.sp.toNat] } s u :=
    (((Frame.refl _ s).setPc _).trans (hst.setPc _)).trans
      (htu.mono (List.Subset.refl _) (List.nil_subset _) (List.Subset.refl _) (by simp))
  refine ⟨t, u, (step_known hmode hcall).trans ht, htpc, htsp, ?_, ?_, hspback, ?_,
    { hframe with sp := fun _ => hspback }⟩
  · exact (step_known ((hst.mode rfl).trans hmode) (hfetch ▸ hret)).trans hu
  · rw [hpcback]
    exact s.setPc_pc_toNat _
  · rw [hpcback]
    exact (htu.slots _ List.not_mem_nil).trans htslot

/-- Settles O23: in an invariant state the top slot holds a pc value. -/
theorem retPopsTheReturnAddress : Obligations.RetPopsTheReturnAddress := by
  unfold Obligations.RetPopsTheReturnAddress
  intro s hinv hsp
  have hle := hinv.sp_le
  have hslot := hinv.slot_lt ⟨s.sp.toNat - 1, by omega⟩
  obtain ⟨t, ht, htsp, htpc, hframe⟩ := exec_ret_pops hsp hslot
  exact ⟨t, ht, htsp, htpc, encoded .ret, hframe⟩

/-- Settles O25: the push is followed by a jump to a 12-bit target. -/
theorem callPushesTheReturnAddress : Obligations.CallPushesTheReturnAddress := by
  unfold Obligations.CallPushesTheReturnAddress
  intro nnn s hlt
  obtain ⟨t, ht, htpc, htsp, htslot, hframe⟩ := exec_call_pushes nnn hlt
  exact ⟨t, ht, htpc, htsp, htslot, encoded (.call nnn), hframe⟩

/-- Settles O27: a 12-bit target is a pc value as it stands. -/
theorem jumpSetsThePc : Obligations.JumpSetsThePc := by
  unfold Obligations.JumpSetsThePc
  intro nnn s
  exact ⟨congrArg Host.Outcome.next (s.setPc_imm12 nnn), encoded (.jp nnn)⟩

/-- Settles O28: the write of the pc reduces the sum mod 4096. -/
theorem jumpWithOffsetAddsV0 : Obligations.JumpWithOffsetAddsV0 := by
  unfold Obligations.JumpWithOffsetAddsV0
  intro nnn s
  exact ⟨rfl, encoded (.jpV0 nnn)⟩

/-- Settles O29: Vx and the byte are equal or different, and the two skips are on opposite tests. -/
theorem immediateSkipsCompareWithVx : Obligations.ImmediateSkipsCompareWithVx := by
  unfold Obligations.ImmediateSkipsCompareWithVx
  intro x nn s
  rw [exec_seImm, exec_sneImm, ← s.skipIf_true]
  exact ⟨s.skips_of_eq, s.skips_of_ne, encoded (.seImm x nn), encoded (.sneImm x nn)⟩

/-- Settles O30: likewise, with Vy for the byte. -/
theorem registerSkipsCompareVxAndVy : Obligations.RegisterSkipsCompareVxAndVy := by
  unfold Obligations.RegisterSkipsCompareVxAndVy
  intro x y s
  rw [exec_seReg, exec_sneReg, ← s.skipIf_true]
  exact ⟨s.skips_of_eq, s.skips_of_ne, encoded (.seReg x y), encoded (.sneReg x y)⟩

end Sys2Proof.Machine

/-!
PROOFS of the statements about the registers and the ALU (spec/42_alu.md): what an instruction without a flag leaves in Vx,
what one with a flag leaves in Vx and VF, and the flags in the spec's terms.
-/
namespace Sys2Proof.Machine

/-! ## Vx and VF after a write with a flag (R160; spec/40_step_cycle.md R126) -/

theorem State.reg_setRegThenFlag_flag (s : State) (x : Reg) (b : Byte) (f : Bool) :
    (s.setRegThenFlag x b f).reg regVF = if f then 1 else 0 := by
  rw [State.reg_setRegThenFlag, if_pos rfl]

theorem State.reg_setRegThenFlag_of_ne (s : State) {x : Reg} (hx : x ≠ regVF) (b : Byte) (f : Bool) :
    (s.setRegThenFlag x b f).reg x = b := by
  rw [State.reg_setRegThenFlag, if_neg hx, if_pos rfl]

theorem State.reg_setRegThenFlag_flag_of_iff (s : State) (x : Reg) (b : Byte) {f : Bool} {P : Prop} [Decidable P]
    (h : f = true ↔ P) : (s.setRegThenFlag x b f).reg regVF = if P then 1 else 0 :=
  (s.reg_setRegThenFlag_flag x b f).trans (if_congr h rfl rfl)

theorem State.reg_setRegThenFlag_flag_toNat (s : State) (x : Reg) (b : Byte) (f : Bool) :
    ((s.setRegThenFlag x b f).reg regVF).toNat = f.toNat := by
  rw [State.reg_setRegThenFlag_flag]
  cases f <;> rfl

/-! ## The flags (R167 to R171) -/

theorem carryOut_iff {p q : Byte} : carryOut p q = true ↔ p.toNat + q.toNat > 255 := decide_eq_true_iff

theorem noBorrow_iff {p q : Byte} : noBorrow p q = true ↔ p.toNat ≥ q.toNat := decide_eq_true_iff

theorem shiftedOutRight_toNat (p : Byte) : (shiftedOutRight p).toNat = p.toNat % 2 :=
  (Nat.toNat_testBit p.toNat 0).trans (by rw [pow_zero, Nat.div_one])

/-- Bit 7 is the only bit of a byte from 128 up, so that no remainder is taken. -/
theorem shiftedOutLeft_toNat (p : Byte) : (shiftedOutLeft p).toNat = p.toNat / 128 :=
  (Nat.toNat_testBit p.toNat 7).trans (by have := p.isLt; omega)

/-! ## The shifts by one place (R169, R171) -/

theorem shiftRight_one_toNat (p : Byte) : (p >>> 1).toNat = p.toNat / 2 := by
  rw [BitVec.toNat_ushiftRight, Nat.shiftRight_one]

theorem shiftLeft_one_toNat (p : Byte) : (p <<< 1).toNat = 2 * p.toNat % 256 := by
  rw [BitVec.toNat_shiftLeft, Nat.shiftLeft_eq, pow_one, Nat.mul_comm]

/-! ## The obligations -/

/-- Settles O32: both loads are the one write of Vx. -/
theorem loadsSetVx : Obligations.LoadsSetVx := by
  unfold Obligations.LoadsSetVx
  constructor
  · intro x nn s
    exact ⟨_, rfl, s.reg_setReg_same x nn, rfl, .of_setReg s x nn, encoded (.ldImm x nn)⟩
  · intro x y s
    exact ⟨_, rfl, s.reg_setReg_same x (s.reg y), rfl, .of_setReg s x _, encoded (.ldReg x y)⟩

/-- Settles O33: the one write is of Vx, so that VF stays where x is not F. -/
theorem addImmediateWrapsWithoutFlag : Obligations.AddImmediateWrapsWithoutFlag := by
  unfold Obligations.AddImmediateWrapsWithoutFlag
  intro x nn s
  refine ⟨_, rfl, ?_, fun hx => s.reg_setReg_ne _ hx.symm, rfl, .of_setReg s x _, encoded (.addImm x nn)⟩
  rw [State.reg_setReg_same, addMod_toNat]

/-- Settles O34: the one write is of Vx, with the operation's byte, whose bits the library gives. -/
theorem logicOperationsSetNoFlag : Obligations.LogicOperationsSetNoFlag := by
  unfold Obligations.LogicOperationsSetNoFlag
  intro x y s
  refine ⟨⟨_, rfl, fun k => ?_, rfl, .of_setReg s x _, encoded (.or x y)⟩,
    ⟨_, rfl, fun k => ?_, rfl, .of_setReg s x _, encoded (.and x y)⟩,
    ⟨_, rfl, fun k => ?_, rfl, .of_setReg s x _, encoded (.xor x y)⟩⟩
  · rw [State.reg_setReg_same, BitVec.getLsbD_or]
  · rw [State.reg_setReg_same, BitVec.getLsbD_and]
  · rw [State.reg_setReg_same, BitVec.getLsbD_xor]

/-- Settles O35: VF is written after Vx, with the carry. -/
theorem addSetsTheCarry : Obligations.AddSetsTheCarry := by
  unfold Obligations.AddSetsTheCarry
  intro x y s
  refine ⟨_, rfl, fun hx => ?_, s.reg_setRegThenFlag_flag_of_iff x _ carryOut_iff, rfl, .of_setRegThenFlag s x _ _,
    encoded (.addReg x y)⟩
  rw [s.reg_setRegThenFlag_of_ne hx, addMod_toNat]

/-- Settles O36: VF is written after Vx, with the no-borrow flag; SUBN has the operands of SUB exchanged. -/
theorem subtractionsSetNoBorrow : Obligations.SubtractionsSetNoBorrow := by
  unfold Obligations.SubtractionsSetNoBorrow
  intro x y s
  refine ⟨⟨_, rfl, fun hx => ?_, s.reg_setRegThenFlag_flag_of_iff x _ noBorrow_iff, rfl, .of_setRegThenFlag s x _ _,
      encoded (.sub x y)⟩,
    ⟨_, rfl, fun hx => ?_, s.reg_setRegThenFlag_flag_of_iff x _ noBorrow_iff, rfl, .of_setRegThenFlag s x _ _,
      encoded (.subn x y)⟩⟩ <;>
    rw [s.reg_setRegThenFlag_of_ne hx, subMod_toNat]

/-- Settles O37: VF is written after Vx, with bit 0 of the old Vx on the right shift and bit 7 on the left one. -/
theorem shiftsSetTheBitShiftedOut : Obligations.ShiftsSetTheBitShiftedOut := by
  unfold Obligations.ShiftsSetTheBitShiftedOut
  intro x y s
  refine ⟨⟨_, rfl, fun hx => ?_, ?_, rfl, .of_setRegThenFlag s x _ _, encoded (.shr x y)⟩,
    ⟨_, rfl, fun hx => ?_, ?_, rfl, .of_setRegThenFlag s x _ _, encoded (.shl x y)⟩⟩
  · rw [s.reg_setRegThenFlag_of_ne hx, shiftRight_one_toNat]
  · rw [State.reg_setRegThenFlag_flag_toNat, shiftedOutRight_toNat]
  · rw [s.reg_setRegThenFlag_of_ne hx, shiftLeft_one_toNat]
  · rw [State.reg_setRegThenFlag_flag_toNat, shiftedOutLeft_toNat]

/-- Settles O38: the draw is taken and Vx written, with the draw under the mask; a bit that the mask clears is clear. -/
theorem randomByteIsMasked : Obligations.RandomByteIsMasked := by
  unfold Obligations.RandomByteIsMasked
  intro x nn s
  refine ⟨_, rfl, State.reg_setReg_same _ x _, rfl, fun k hk => ?_, rfl, .of_takeDraw_setReg s x _,
    encoded (.rnd x nn)⟩
  rw [State.reg_setReg_same, BitVec.getLsbD_and, hk, Bool.and_false]

end Sys2Proof.Machine

/-!
PROOFS of the statements about the index register and the memory operations (spec/43_index_memory.md): the value I takes,
what a store at I leaves at `A(I + k)`, what a load from there leaves in Vk.
-/
namespace Sys2Proof.Machine

/-! ## The BCD digits (R193) -/

/-- Each digit is below 10, so that its byte holds it as it stands. -/
theorem bcdDigits_toNat (b : Byte) :
    (bcdDigits b).map BitVec.toNat = [b.toNat / 100, b.toNat / 10 % 10, b.toNat % 10] := by
  have hb := b.isLt
  simp only [bcdDigits, List.map_cons, List.map_nil, BitVec.toNat_ofNat, List.cons.injEq, and_true]
  omega

/-- A store of the digits at I leaves digit k at `A(I + k)`. -/
theorem Memory.read_writeBytes_bcdDigits {s : State} (hwf : s.mem.wf = true) (b : Byte) {k : Nat} (hk : k < 3) :
    ((s.mem.writeBytes s.i.toNat (bcdDigits b)).read (s.indexAddr k)).toNat =
      [b.toNat / 100, b.toNat / 10 % 10, b.toNat % 10][k] := by
  calc ((s.mem.writeBytes s.i.toNat (bcdDigits b)).read (s.indexAddr k)).toNat
      = (bcdDigits b)[k].toNat := congrArg BitVec.toNat (Memory.read_writeBytes _ hwf _ (by simp) hk)
    _ = ((bcdDigits b).map BitVec.toNat)[k]'(by simpa using hk) := (List.getElem_map _).symm
    _ = [b.toNat / 100, b.toNat / 10 % 10, b.toNat % 10][k] := by simp only [bcdDigits_toNat]

/-! ## Stores and loads at I (R194, R195) -/

/-- The addresses of an I-based access depend on I alone. -/
theorem State.indexAddr_congr {s t : State} (h : t.i = s.i) (k : Nat) : t.indexAddr k = s.indexAddr k := by
  rw [State.indexAddr, h, State.indexAddr]

/-- A load of V0 to Vx from I leaves the byte at `A(I + r)` in Vr. -/
theorem State.reg_setRegs_readBytes (s : State) {x r : Reg} (hr : r ≤ x) :
    (s.setRegs (s.mem.readBytes s.i.toNat (x.val + 1))).reg r = s.mem.read (s.indexAddr r.val) := by
  rw [State.reg_setRegs, Memory.readBytes_getD _ _ (Nat.lt_succ_of_le hr), State.indexAddr]

theorem exec_ldMemVx (x : Reg) (s : State) :
    exec (.ldMemVx x) s = .next (s.setMem (s.mem.writeBytes s.i.toNat (s.regsUpTo x))) := rfl

theorem exec_ldVxMem (x : Reg) (s : State) :
    exec (.ldVxMem x) s = .next (s.setRegs (s.mem.readBytes s.i.toNat (x.val + 1))) := rfl

/-! ## The obligations -/

/-- Settles O42: the three bytes stored are the digits, and the store changes `A(I)` to `A(I + 2)` alone. -/
theorem bcdDigitsAreStored : Obligations.BcdDigitsAreStored := by
  unfold Obligations.BcdDigitsAreStored
  intro x s hwf
  have digit {k : Nat} (hk : k < 3) := Memory.read_writeBytes_bcdDigits hwf (s.reg x) hk
  exact ⟨_, rfl, digit (k := 0) (by decide), digit (k := 1) (by decide), digit (k := 2) (by decide), rfl,
    .of_writeBytes s (bcdDigits (s.reg x)), encoded (.ldBVx x)⟩

/-- Settles O43: the run of at most 16 bytes stored reads back, and the store changes no byte outside it. -/
theorem registersAreStored : Obligations.RegistersAreStored := by
  unfold Obligations.RegistersAreStored
  intro x s hwf
  exact ⟨_, exec_ldMemVx x s, fun _ hk => Memory.read_writeBytes_regsUpTo hwf hk, rfl,
    .of_writeBytes_regsUpTo s x, encoded (.ldMemVx x)⟩

/-- Settles O44: as many registers are written as bytes are read, so that those above x are in the frame. -/
theorem registersAreLoaded : Obligations.RegistersAreLoaded := by
  unfold Obligations.RegistersAreLoaded
  intro x s
  have hframe := Frame.of_setRegs s x (s.mem.readBytes s.i.toNat (x.val + 1)) (Memory.readBytes_length _ _ _).le
  exact ⟨_, exec_ldVxMem x s, fun _ hk => s.reg_setRegs_readBytes hk,
    fun k hk => hframe.regs k (mt mem_regsTo.1 (not_le.2 hk)), rfl, hframe, encoded (.ldVxMem x)⟩

/-- Settles O45: the store keeps I, so that the load reads the addresses where the store left the registers. -/
theorem storeThenLoadRestoresRegisters : Obligations.StoreThenLoadRestoresRegisters := by
  unfold Obligations.StoreThenLoadRestoresRegisters
  intro x s hwf
  refine ⟨_, exec_ldMemVx x s, fun u hmem hi => ⟨_, exec_ldVxMem x u, fun k hk => ?_⟩⟩
  rw [State.setMem_mem] at hmem
  rw [State.setMem_i] at hi
  rw [u.reg_setRegs_readBytes hk, hmem, State.indexAddr_congr hi]
  exact Memory.read_writeBytes_regsUpTo hwf hk

/-- Settles O39: the one write is of I, with the 12-bit operand, which 16 bits hold as it stands. -/
theorem indexIsLoaded : Obligations.IndexIsLoaded := by
  unfold Obligations.IndexIsLoaded
  intro nnn s
  exact ⟨_, rfl, BitVec.toNat_setWidth_of_le (by decide), rfl, .of_setIndex s _, encoded (.ldI nnn)⟩

/-- Settles O40: the one write is of I, whose 16 bits hold the sum mod 65536. -/
theorem indexIsAddedTo : Obligations.IndexIsAddedTo := by
  unfold Obligations.IndexIsAddedTo
  intro x s
  exact ⟨_, rfl, BitVec.toNat_ofNat _ 16, rfl, .of_setIndex s _, encoded (.addIVx x)⟩

/-- Settles O41: the one write is of I, with the address of the glyph. -/
theorem indexPointsAtTheGlyph : Obligations.IndexPointsAtTheGlyph := by
  unfold Obligations.IndexPointsAtTheGlyph
  intro x s
  exact ⟨_, rfl, glyphAddr_toNat (s.reg x), rfl, .of_setIndex s _, encoded (.ldFVx x)⟩

end Sys2Proof.Machine

/-!
PROOFS of the statements about the display (spec/44_display.md): what a draw does to the pixels and to `hit` under either
edge policy, the pixels it reaches where the sprite is clipped, and the state after a DRW.
-/
namespace Sys2Proof.Machine

/-! ## The pixels of a sprite (R211, R212, R213) -/

/-- All that the loop of R211 does for a DRW: it flips the pixels that the sprite covers. -/
theorem State.drawn_flipped (s : State) (edge : Config.SpriteEdge) (x y : Reg) (n : Nibble) :
    Flipped ⟨s.fb, false⟩ (s.spriteCovers edge x y n) (s.drawn edge x y n) :=
  drawRows_flipped edge s.mem s.i.toNat (spriteRow (s.reg y)) (spriteColumn (s.reg x)) n.toNat n.isLt.le _

theorem State.drawn_hit_iff (s : State) (edge : Config.SpriteEdge) (x y : Reg) (n : Nibble) :
    (s.drawn edge x y n).hit = true ↔ ∃ r c, s.spriteCovers edge x y n r c ∧ s.fb.pixel r c = true :=
  (s.drawn_flipped edge x y n).hit.trans (or_iff_right Bool.false_ne_true)

/-- Which pixels a sprite covers depends on memory, I and the two registers of its place alone. -/
theorem State.spriteCovers_congr {s t : State} {x y : Reg} (hmem : t.mem = s.mem) (hi : t.i = s.i)
    (hx : t.reg x = s.reg x) (hy : t.reg y = s.reg y) (edge : Config.SpriteEdge) (n : Nibble) :
    t.spriteCovers edge x y n = s.spriteCovers edge x y n := by
  funext r c
  simp only [State.spriteCovers, hmem, State.indexAddr_congr hi, hx, hy]

/-- Where the sprite is clipped, a pixel is covered by at most one bit: the one in row `r - r0` and column `c - c0`. -/
theorem State.spriteCovers_clip_iff (s : State) (x y : Reg) (n : Nibble) (r : Fin 32) (c : Fin 64) :
    s.spriteCovers .clip x y n r c ↔
      (s.reg y).toNat % 32 ≤ r.val ∧ r.val < (s.reg y).toNat % 32 + n.toNat ∧
      (s.reg x).toNat % 64 ≤ c.val ∧ c.val < (s.reg x).toNat % 64 + 8 ∧
      (s.mem.read ((s.i.toNat + (r.val - (s.reg y).toNat % 32)) % 4096)).getLsbD
        (7 - (c.val - (s.reg x).toNat % 64)) = true := by
  simp only [State.spriteCovers, place_clip_eq_some]
  constructor
  · rintro ⟨k, hk, j, hj, hbit, hr, hc⟩
    have hrow : r.val - (s.reg y).toNat % 32 = k := by omega
    have hcolumn : c.val - (s.reg x).toNat % 64 = j := by omega
    rw [hrow, hcolumn]
    exact ⟨by omega, by omega, by omega, by omega, hbit⟩
  · rintro ⟨hr, hr', hc, hc', hbit⟩
    exact ⟨_, by omega, _, by omega, hbit, by omega, by omega⟩

/-! ## The state after a DRW (R211) -/

/-- The answer of DRW Vx, Vy, n. -/
def State.afterDrw (s : State) (x y : Reg) (n : Nibble) : State :=
  (s.setFb (s.drawn Config.spriteEdge x y n).fb).setFlag (s.drawn Config.spriteEdge x y n).hit

theorem exec_drw (x y : Reg) (n : Nibble) (s : State) : exec (.drw x y n) s = .next (s.afterDrw x y n) := rfl

section
variable (s : State) (x y : Reg) (n : Nibble)

theorem State.afterDrw_frame : Frame { regs := [regVF], display := true } s (s.afterDrw x y n) :=
  .of_setFb_setFlag s _ _

theorem State.afterDrw_pixel_of_covered {r : Fin 32} {c : Fin 64}
    (h : s.spriteCovers Config.spriteEdge x y n r c) : (s.afterDrw x y n).fb.pixel r c = !s.fb.pixel r c :=
  (s.drawn_flipped Config.spriteEdge x y n).inside r c h

theorem State.afterDrw_pixel_of_not_covered {r : Fin 32} {c : Fin 64}
    (h : ¬ s.spriteCovers Config.spriteEdge x y n r c) : (s.afterDrw x y n).fb.pixel r c = s.fb.pixel r c :=
  (s.drawn_flipped Config.spriteEdge x y n).outside r c h

theorem State.afterDrw_reg_regVF :
    (s.afterDrw x y n).reg regVF = if (s.drawn Config.spriteEdge x y n).hit then 1 else 0 := by
  rw [State.afterDrw, State.reg_setFlag, if_pos rfl]

/-- VF after a DRW is the collision. -/
theorem State.afterDrw_collision_iff : (s.afterDrw x y n).reg regVF = 1 ↔
    ∃ r c, s.spriteCovers Config.spriteEdge x y n r c ∧ s.fb.pixel r c = true := by
  rw [State.afterDrw_reg_regVF, ← s.drawn_hit_iff]
  cases (s.drawn Config.spriteEdge x y n).hit <;> decide

/-- VF after a DRW without a collision is 0, whatever it was. -/
theorem State.afterDrw_reg_regVF_of_no_collision
    (h : ¬ ∃ r c, s.spriteCovers Config.spriteEdge x y n r c ∧ s.fb.pixel r c = true) :
    (s.afterDrw x y n).reg regVF = 0 := by
  rw [State.afterDrw_reg_regVF, if_neg (mt (s.drawn_hit_iff Config.spriteEdge x y n).1 h)]

end

/-! ## Drawing twice (R214) -/

/-- A DRW whose place is not read from VF covers the same pixels when it is run again. -/
theorem State.spriteCovers_afterDrw (s : State) {x y : Reg} (hx : x ≠ regVF) (hy : y ≠ regVF) (n : Nibble)
    (edge : Config.SpriteEdge) : (s.afterDrw x y n).spriteCovers edge x y n = s.spriteCovers edge x y n :=
  State.spriteCovers_congr (s := s) (t := s.afterDrw x y n) rfl rfl (s.reg_setReg_ne _ hx) (s.reg_setReg_ne _ hy) edge n

/-- The second draw flips back what the first one flipped. -/
theorem State.afterDrw_afterDrw_fb (s : State) {x y : Reg} (hx : x ≠ regVF) (hy : y ≠ regVF) (n : Nibble) :
    ((s.afterDrw x y n).afterDrw x y n).fb = s.fb := by
  have hcovers := s.spriteCovers_afterDrw hx hy n Config.spriteEdge
  refine Framebuffer.ext_pixel fun r c => ?_
  by_cases h : s.spriteCovers Config.spriteEdge x y n r c
  · rw [State.afterDrw_pixel_of_covered _ x y n (hcovers ▸ h), s.afterDrw_pixel_of_covered x y n h, Bool.not_not]
  · rw [State.afterDrw_pixel_of_not_covered _ x y n (hcovers ▸ h), s.afterDrw_pixel_of_not_covered x y n h]

/-- The second draw hits the pixels that the first one turned on. -/
theorem State.afterDrw_afterDrw_collision_iff (s : State) {x y : Reg} (hx : x ≠ regVF) (hy : y ≠ regVF) (n : Nibble) :
    ((s.afterDrw x y n).afterDrw x y n).reg regVF = 1 ↔
      ∃ r c, s.spriteCovers Config.spriteEdge x y n r c ∧ s.fb.pixel r c = false := by
  rw [State.afterDrw_collision_iff, s.spriteCovers_afterDrw hx hy]
  refine exists_congr fun r => exists_congr fun c => and_congr_right fun h => ?_
  rw [s.afterDrw_pixel_of_covered x y n h, Bool.not_eq_true']

/-! ## The obligations -/

/-- Settles O46: the one write is of the framebuffer, with the blank one. -/
theorem clearTurnsEveryPixelOff : Obligations.ClearTurnsEveryPixelOff := by
  unfold Obligations.ClearTurnsEveryPixelOff
  intro s
  exact ⟨_, rfl, Framebuffer.pixel_blank, rfl, .of_setFb s _, encoded .cls⟩

/-- Settles O47: under the policy chosen, clip, the pixels covered are the lit ones. -/
theorem drawXorsTheVisiblePixels : Obligations.DrawXorsTheVisiblePixels := by
  unfold Obligations.DrawXorsTheVisiblePixels
  intro x y n s
  have hedge : Config.spriteEdge = .clip := rfl
  simp only [← s.spriteCovers_clip_iff x y n, ← hedge]
  exact ⟨_, exec_drw x y n s,
    fun _ _ => ⟨s.afterDrw_pixel_of_covered x y n, s.afterDrw_pixel_of_not_covered x y n⟩,
    (s.afterDrw_collision_iff x y n).2, s.afterDrw_reg_regVF_of_no_collision x y n, rfl, s.afterDrw_frame x y n,
    encoded (.drw x y n)⟩

/-- Settles O48: the loop's rule, with `hit` lowered at its start. -/
theorem drawFollowsEitherEdgePolicy : Obligations.DrawFollowsEitherEdgePolicy := by
  unfold Obligations.DrawFollowsEitherEdgePolicy
  intro edge x y n s
  have h := s.drawn_flipped edge x y n
  exact ⟨fun r c => ⟨h.inside r c, h.outside r c⟩, s.drawn_hit_iff edge x y n⟩

/-- Settles O49: both draws cover the same pixels, so that the second undoes the first, VF apart. -/
theorem drawTwiceRestoresTheDisplay : Obligations.DrawTwiceRestoresTheDisplay := by
  unfold Obligations.DrawTwiceRestoresTheDisplay
  intro x y n s hx hy
  have hfb := s.afterDrw_afterDrw_fb hx hy n
  have hframe := (s.afterDrw_frame x y n).trans ((s.afterDrw x y n).afterDrw_frame x y n)
  exact ⟨_, _, exec_drw x y n s, exec_drw x y n _, hfb, s.afterDrw_afterDrw_collision_iff hx hy n,
    { hframe with display := fun _ => hfb }⟩

end Sys2Proof.Machine

/-!
PROOFS of the statements about the keypad and the timers (spec/45_keypad_timers.md): the two outcomes of a key skip, the two
outcomes of a waiting step, and what a step or a tick keeps of a wait without a new key.
-/
namespace Sys2Proof.Machine

/-! ## The skips on a key, and the sound output (R230, R231, R236) -/

/-- The two skips are on opposite levels of one key. -/
theorem exec_key_skips {x : Reg} {s : State} {held : Bool} (h : s.keyOf x = held) :
    exec (.skp x) s = .next (s.skipIf held) ∧ exec (.sknp x) s = .next (s.skipIf !held) := by
  subst h
  exact ⟨rfl, rfl⟩

theorem soundOn_iff {s : State} : soundOn s = true ↔ s.st ≠ 0 :=
  decide_eq_true_iff.trans (s.st.toNat_pos.trans s.st.pos_iff_ne_zero)

/-! ## A waiting step (R234) -/

theorem State.newKeys_getLsbD_iff (s : State) {k : Nat} (hk : k < 16) :
    s.newKeys.getLsbD k = true ↔ s.keys.getLsbD k = true ∧ s.ks.getLsbD k = false := by
  rw [s.newKeys_getLsbD hk, Bool.and_eq_true, Bool.not_eq_true']

theorem State.newKeys_getLsbD_eq_false_iff (s : State) {k : Nat} (hk : k < 16) :
    s.newKeys.getLsbD k = false ↔ ¬ (s.keys.getLsbD k = true ∧ s.ks.getLsbD k = false) := by
  rw [← s.newKeys_getLsbD_iff hk, Bool.not_eq_true]

theorem lowestKey_zero : lowestKey 0 = none := rfl

/-- Right after the keys are sampled, none of them is new. -/
theorem State.newKeys_setSnapshot_keys (s : State) : (s.setSnapshot s.keys).newKeys = 0 :=
  BitVec.and_not_self s.keys

theorem step_of_newKey {s : State} {t : Reg} {k : Nat} (hmode : s.mode = .awaitingKey t)
    (hk : lowestKey s.newKeys = some k) : step s = .next ((s.setReg t (BitVec.ofNat 8 k)).setMode .running) := by
  rw [step_awaiting hmode, awaitKeyStep, hk]

theorem step_of_no_newKey {s : State} {t : Reg} (hmode : s.mode = .awaitingKey t)
    (hnone : lowestKey s.newKeys = none) : step s = .next (s.setSnapshot s.keys) := by
  rw [step_awaiting hmode, awaitKeyStep, hnone]

/-! ## A wait without a new key (R234, R268) -/

/-- The state waits for a key, and no key is newly pressed. -/
structure State.WaitsIdly (t : Reg) (s : State) : Prop where
  mode : s.mode = .awaitingKey t
  newKeys : s.newKeys = 0

/-- A step or a tick leaves such a wait as it is, the timers and the snapshot apart. -/
theorem applyEvent_keeps_waitsIdly {e : Event} (he : e = .step ∨ e = .tick) {t : Reg} {s : State} (h : s.WaitsIdly t) :
    ∃ u, applyEvent e s = .next u ∧ u.WaitsIdly t ∧
      Frame { delay := true, sound := true, wait := true } s u ∧ u.pc = s.pc := by
  obtain rfl | rfl := he
  · exact ⟨_, step_of_no_newKey h.mode (h.newKeys ▸ lowestKey_zero), ⟨h.mode, s.newKeys_setSnapshot_keys⟩,
      { Frame.refl _ s with snapshot := (nomatch ·) }, rfl⟩
  · exact ⟨_, rfl, ⟨h.mode, h.newKeys⟩, { Frame.of_tick s with mode := (nomatch ·), snapshot := (nomatch ·) }, rfl⟩

/-- Any number of steps and ticks likewise, by induction on their list. -/
theorem runEvents_keeps_waitsIdly {t : Reg} {s : State} (h : s.WaitsIdly t) (es : List Event)
    (hes : ∀ e ∈ es, e = .step ∨ e = .tick) :
    ∃ u, runEvents es s = .next u ∧ u.WaitsIdly t ∧
      Frame { delay := true, sound := true, wait := true } s u ∧ u.pc = s.pc := by
  induction es generalizing s with
  | nil => exact ⟨s, rfl, h, Frame.refl _ s, rfl⟩
  | cons e es ih =>
    obtain ⟨he, hes⟩ := List.forall_mem_cons.1 hes
    obtain ⟨u, hu, hwait, hframe, hpc⟩ := applyEvent_keeps_waitsIdly he h
    obtain ⟨w, hw, hwait', hframe', hpc'⟩ := ih hwait hes
    exact ⟨w, (runEvents_cons hu es).trans hw, hwait', hframe.trans hframe', hpc'.trans hpc⟩

/-! ## The obligations -/

/-- Settles O53: the key named is the lowest of the set of new keys, and the step writes Vt and the mode alone. -/
theorem waitTakesTheLowestNewKey : Obligations.WaitTakesTheLowestNewKey := by
  unfold Obligations.WaitTakesTheLowestNewKey
  intro s t k hmode hk hheld hnew hlowest
  have hfound : lowestKey s.newKeys = some k := lowestKey_eq_some.2 ⟨hk, (s.newKeys_getLsbD_iff hk).2 ⟨hheld, hnew⟩,
    fun j hj => (s.newKeys_getLsbD_eq_false_iff (hj.trans hk)).2 (hlowest j hj)⟩
  exact ⟨_, step_of_newKey hmode hfound, s.reg_setReg_same t _, rfl, rfl, rfl,
    { Frame.of_setReg s t _ with mode := (nomatch ·), snapshot := (nomatch ·) }⟩

/-- Settles O55: the wait for no new key holds at the start, and every step and every tick keeps it. -/
theorem waitGoesOnUntilANewKey : Obligations.WaitGoesOnUntilANewKey := by
  unfold Obligations.WaitGoesOnUntilANewKey
  intro es s t hmode hnew hes
  obtain ⟨u, hu, hwait, hframe, hpc⟩ := runEvents_keeps_waitsIdly ⟨hmode, hnew⟩ es hes
  exact ⟨u, hu, hwait.mode, hframe, hpc⟩

/-- Settles O50: the key is held or it is not, and the two skips are on opposite levels of it. -/
theorem keySkipsTestTheKey : Obligations.KeySkipsTestTheKey := by
  unfold Obligations.KeySkipsTestTheKey
  intro x s
  exact ⟨exec_key_skips, exec_key_skips, encoded (.skp x), encoded (.sknp x)⟩

/-- Settles O51: each move is one write, of Vx or of a timer, and the sound output follows the sound timer. -/
theorem timersAreReadAndSet : Obligations.TimersAreReadAndSet := by
  unfold Obligations.TimersAreReadAndSet
  intro x s
  exact ⟨⟨_, rfl, s.reg_setReg_same x s.dt, rfl, .of_setReg s x _, encoded (.ldVxDt x)⟩,
    ⟨_, rfl, rfl, rfl, .of_setDelay s _, encoded (.ldDtVx x)⟩,
    ⟨_, rfl, rfl, soundOn_iff, rfl, .of_setSound s _, encoded (.ldStVx x)⟩⟩

/-- Settles O52: the two writes are of the mode and of the snapshot. -/
theorem keyWaitBegins : Obligations.KeyWaitBegins := by
  unfold Obligations.KeyWaitBegins
  intro x s
  exact ⟨_, rfl, rfl, rfl, rfl, .of_setMode_setSnapshot s _ _, encoded (.ldVxK x)⟩

/-- Settles O54: with no key newly pressed, the set of new keys has no lowest one. -/
theorem waitWithoutANewKeyOnlySamples : Obligations.WaitWithoutANewKeyOnlySamples := by
  unfold Obligations.WaitWithoutANewKeyOnlySamples
  intro s t hmode hnone
  exact step_of_no_newKey hmode (lowestKey_eq_none.2 fun k hk => (s.newKeys_getLsbD_eq_false_iff hk).2 (hnone k hk))

end Sys2Proof.Machine

/-!
PROOFS of the statements about the conditions and the tick (spec/60_exceptions.md): what a report leaves behind it, which
instructions report and when, and the two host events that write the timers and the keypad.
-/
namespace Sys2Proof.Machine

/-! ## The state after a report (R252, R253) -/

/-- A report made in the step that fetched the word: the record names the pc before the fetch. -/
theorem State.raise_afterFetch {s : State} (h : s.pc.toNat < 4096) (kind : DiagKind) (op : Word) :
    s.afterFetch.raise kind op = { s with
      pc := BitVec.ofNat 16 ((s.pc.toNat + 2) % 4096)
      diag := s.diag ++ [⟨kind, op, s.pc⟩] } := by
  rw [State.raise, s.fetchAddr_afterFetch h, s.afterFetch_eq]

/-- The report of an instruction: its fetch address is 2 before the post-fetch pc, mod 4096. -/
theorem State.raise_eq (s : State) (kind : DiagKind) (op : Word) :
    s.raise kind op = { s with
      diag := s.diag ++ [⟨kind, op, BitVec.ofNat 16 ((s.pc.toNat + 4094) % 4096)⟩] } := rfl

/-! ## The words reported (R251) -/

/-- The word of CALL nnn, as the spec writes it: 2nnn. -/
theorem formatA_two_eq_or (nnn : Imm12) : formatA 0x2 nnn = 0x2000 ||| nnn.setWidth 16 := by
  rw [formatA, BitVec.append_def, BitVec.setWidth'_eq]
  rfl

/-- Each word of a row of the table decodes to an instruction, so that an unknown word is in no row. -/
theorem knownWord_eq_false_of_decode_unknown {op op' : Word} (h : decode op = .unknownOpcode op') :
    knownWord op = false := by
  rw [knownWord, List.any_eq_false]
  intro p hp haccepts
  obtain ⟨i, hi, _⟩ := exists_decode_of_accepts hp haccepts
  cases h.symm.trans hi

/-! ## Which instructions report (R254, R255) -/

/-- An instruction that changes DIAG is a RET on an empty stack or a CALL on a full one, and all it does is the report. -/
theorem exec_reports {i : Instr} {s t : State} (h : exec i s = .next t) (hdiag : t.diag ≠ s.diag) :
    (i = .ret ∧ s.sp = 0 ∧ t = s.raise .stackUnderflow (encode i)) ∨
    ((∃ nnn, i = .call nnn) ∧ s.sp = 16 ∧ t = s.raise .stackOverflow (encode i)) := by
  cases i with
  | ret =>
    by_cases hsp : s.sp = 0
    · cases (execRet_empty hsp).symm.trans h
      exact .inl ⟨rfl, hsp, rfl⟩
    · cases (execRet_nonempty hsp).symm.trans h
      exact absurd rfl hdiag
  | call nnn =>
    by_cases hsp : s.sp = 16
    · cases (execCall_full nnn hsp).symm.trans h
      exact .inr ⟨⟨nnn, rfl⟩, hsp, rfl⟩
    · cases (execCall_free nnn hsp).symm.trans h
      exact absurd rfl hdiag
  | _ => exact absurd ((exec_frame h).diag rfl) hdiag

/-! ## The obligations -/

/-- Settles O16: a waiting check reports nothing; of the instructions RET and CALL alone report, on the state after fetch;
an unknown word matches no row. -/
theorem conditionsArePrecise : Obligations.ConditionsArePrecise := by
  unfold Obligations.ConditionsArePrecise
  intro s t hpc h hdiag
  simp only [← State.raise_afterFetch hpc]
  obtain ⟨r, _, hs⟩ | ⟨i, hmode, hdec, hs⟩ | ⟨op, hmode, hdec, hs⟩ := step_cases s
  · obtain ⟨hframe, _⟩ := of_answer (awaitKeyStep_answers_in_frame r s) (hs.symm.trans h)
    exact absurd (hframe.diag rfl) hdiag
  · have hword : s.fetchWord = encode i := (encode_of_decode hdec).symm
    rw [hword]
    obtain ⟨rfl, hsp, rfl⟩ | ⟨⟨nnn, rfl⟩, hsp, rfl⟩ := exec_reports (s := s.afterFetch) (hs.symm.trans h) hdiag
    · exact ⟨hmode, _, rfl, .inl ⟨rfl, rfl, hsp⟩⟩
    · exact ⟨hmode, _, rfl, .inr (.inl ⟨rfl, formatA_masked 0x2 nnn, hsp⟩)⟩
  · obtain rfl := eq_of_decode_unknown hdec
    cases hs.symm.trans h
    exact ⟨hmode, _, rfl, .inr (.inr ⟨rfl, knownWord_eq_false_of_decode_unknown hdec⟩)⟩

/-- Settles O9: the report is all that an unknown word does to the state after fetch. -/
theorem unknownOpcodeIsReportedAndSkipped : Obligations.UnknownOpcodeIsReportedAndSkipped := by
  unfold Obligations.UnknownOpcodeIsReportedAndSkipped
  intro s hmode hpc hdec
  rw [step_running hmode, execute_unknown hdec, State.raise_afterFetch hpc]

/-- Settles O24: the report is all that a RET on an empty stack does. -/
theorem retOnEmptyStackIsReported : Obligations.RetOnEmptyStackIsReported := by
  unfold Obligations.RetOnEmptyStackIsReported
  intro s hsp
  rw [← s.raise_eq]
  exact execRet_empty hsp

/-- Settles O26: the report is all that a CALL on a full stack does; its word is 0x2000 with nnn in the low bits. -/
theorem callOnFullStackIsReported : Obligations.CallOnFullStackIsReported := by
  unfold Obligations.CallOnFullStackIsReported
  intro nnn s hsp
  rw [← formatA_two_eq_or, ← s.raise_eq]
  exact execCall_full nnn hsp

/-- Settles O56: a tick counts both timers down, and SetKeys is the one write of the keypad. -/
theorem tickAndSetKeysChangeTheirOwnState : Obligations.TickAndSetKeysChangeTheirOwnState := by
  unfold Obligations.TickAndSetKeysChangeTheirOwnState
  intro s
  exact ⟨⟨tick s, rfl, countDown_toNat s.dt, countDown_toNat s.st, rfl, .of_tick s⟩, fun _ => rfl⟩

end Sys2Proof.Machine

/-!
PROOFS of the statements about reset and the parked state (spec/70_reset_and_hazards.md): what the fields hold after reset,
the word that a loaded image puts at the pc, and the jump to its own address.
-/
namespace Sys2Proof.Machine

/-! ## What reset leaves in the registers, the slots and memory (R280; spec/10_state.md R36) -/

@[simp] theorem State.reg_reset (r : Reg) : State.reset.reg r = 0 := by
  rw [State.reg_def]
  exact Vector.getElem_replicate r.isLt

/-- A slot number past the last one reads as 0 too. -/
@[simp] theorem State.slot_reset (k : Nat) : State.reset.slot k = 0 := by
  by_cases hk : k < 16
  · simp [State.slot, State.reset, hk]
  · simp [State.slot, hk]

/-- The font has 80 bytes and starts at address 0 (spec/10_state.md R34). -/
theorem Memory.unlisted_eq (a : Nat) : Memory.unlisted a = if a < 80 then Config.font.getD a 0 else 0 := by
  have hlength : Config.font.length = 80 := by decide
  rw [Memory.unlisted, Nat.sub_zero]
  split
  · rfl
  · exact List.getD_eq_default _ _ (by omega)

/-! ## The word at the start of a run of bytes stored (spec/20_memory.md R63) -/

theorem Memory.wordAt_writeBytes {m : Memory} (hwf : m.wf = true) (e : Nat) {hi lo : Byte} {rest : List Byte}
    (hlength : (hi :: lo :: rest).length ≤ 4096) : (m.writeBytes e (hi :: lo :: rest)).wordAt e = wordOfBytes hi lo :=
  congrArg₂ wordOfBytes (Memory.read_writeBytes _ hwf e hlength (k := 0) (by simp))
    (Memory.read_writeBytes _ hwf e hlength (k := 1) (by simp))

/-- An image that begins with an instruction puts its word where the image begins. -/
theorem Memory.wordAt_writeBytes_encodeBytes {m : Memory} (hwf : m.wf = true) (e : Nat) (i : Instr) {rest : List Byte}
    (hlength : (encodeBytes i ++ rest).length ≤ 4096) : (m.writeBytes e (encodeBytes i ++ rest)).wordAt e = encode i :=
  (Memory.wordAt_writeBytes hwf e hlength).trans (wordOfBytes_high_low (encode i))

/-! ## A jump (spec/41_control_flow.md R141) -/

theorem exec_jp (nnn : Imm12) (s : State) : exec (.jp nnn) s = .next (s.setPc nnn.toNat) := rfl

/-- A write of the pc leaves nothing of the fetch's own write. -/
@[simp] theorem State.afterFetch_setPc (s : State) (e : Nat) : s.afterFetch.setPc e = s.setPc e := rfl

theorem State.setPc_self {s : State} (h : s.pc.toNat < 4096) : s.setPc s.pc.toNat = s :=
  congrArg (fun w : Word => { s with pc := w }) (s.setPc_pc_of_lt h)

/-! ## The obligations -/

/-- Settles O18: the jump sets back the pc that the fetch advanced, and its 12-bit target is a pc value. -/
theorem parkedStepChangesNothing : Obligations.ParkedStepChangesNothing := by
  unfold Obligations.ParkedStepChangesNothing
  rintro s ⟨hmode, nnn, hdec, htarget⟩
  have hpc : s.pc.toNat < 4096 := htarget ▸ nnn.isLt
  calc step s = exec (.jp nnn) s.afterFetch := step_known hmode hdec
    _ = .next (s.setPc s.pc.toNat) := by rw [exec_jp, State.afterFetch_setPc, htarget]
    _ = .next s := by rw [State.setPc_self hpc]

/-- Settles O60: the image begins at the reset value of the pc, so that the fetch reads the word of its instruction. -/
theorem loadedProgramRunsFirst : Obligations.LoadedProgramRunsFirst := by
  unfold Obligations.LoadedProgramRunsFirst
  intro i rest hrest
  have hlength : (encodeBytes i ++ rest).length ≤ 3584 := by
    rw [List.length_append, encodeBytes, List.length_cons, List.length_singleton]
    omega
  refine ⟨_, loadImage_of_fits hlength State.reset, ?_⟩
  have hfetch := Memory.wordAt_writeBytes_encodeBytes Memory.wf_reset Config.progBase i (hlength.trans (by decide))
  exact step_known rfl ((congrArg decode hfetch).trans (decode_encode i))

/-- Settles O58: but for DIAG and the draws, the state after the event is the reset state, field by field. -/
theorem resetGivesTheResetState : Obligations.ResetGivesTheResetState := by
  unfold Obligations.ResetGivesTheResetState
  intro s
  exact ⟨resetEvent s, rfl, State.reg_reset, rfl, rfl, rfl, State.slot_reset, rfl, rfl, rfl, rfl, Memory.unlisted_eq,
    Framebuffer.pixel_blank, rfl, rfl, rfl⟩

end Sys2Proof.Machine
